-- ==== Sys2Proof/Word.lean ====
section
/-! DEFINITION. The widths of KEP's data (spec/00_scope.md rule R7; spec/10_state.md rule R13;
spec/30_encoding.md rules R54, R56). -/

namespace Sys2Proof

/-- A byte, 0..255 (R7). -/
abbrev Byte := BitVec 8

/-- A word, 0..2^32-1 (R7): the rolling hash and the two wide buffer fields. -/
abbrev Word := BitVec 32

/-- A nibble, 0..15 (R7). -/
abbrev Nibble := BitVec 4

/-- The 5-bit code of a micro-operation, the content of `UPC` (R54). -/
abbrev UopCode := BitVec 5

/-- A host command word, and the response word the host gets back (R56). -/
abbrev PortWord := BitVec 16

end Sys2Proof
end

