-- ==== Sys2Proof/Config.lean ====
section
/-! DEFINITION. What an instance of KEP fixes and the spec leaves open: the quotient function of the
Trailer Deriver; and the type of the shift kind. The decided constants are in Machine/Params.lean. -/

namespace Sys2Proof

/-- The kinds the checksum's right shift could be of (`SHRKIND`, spec/00_scope.md rule R6,
spec/90_conflicts.md C1). Which one KEP has is `Machine.Params.shrKind`. -/
inductive ShrKind where
  | arithmetic
  | logical
deriving DecidableEq, Repr

/-- A quotient function `(b0, b1, d) -> byte` (spec/42_trailer.md rule R92). -/
abbrev QuotFn := Byte → Byte → Byte → Byte

/-- `QFN`, the quotient function of this instance (spec/42_trailer.md rule R92, spec/92_eei_decisions.md
D11, spec/93_implementation_defined.md U4): an OPEN parameter, "a total function from `(b0, b1, d)` with
`d != 0` to a byte, depending on nothing else". It has no body, so nothing can be proved of its values:
every claim holds for every instance, `QFN_DOC` and `QFN_REM` (Machine/Trailer.lean) among them.
Assumption log 4 and 5. -/
opaque Config.qfn : QuotFn

end Sys2Proof
end

