-- ==== Sys2Proof/Machine/Params.lean ====
section
/-! DEFINITION. The decided parameters of KEP (spec/00_scope.md rule R6). -/

namespace Sys2Proof.Machine.Params

/-- Least name length in bytes. -/
abbrev nMin : Nat := 5
/-- Greatest name length in bytes. -/
abbrev nMax : Nat := 32
/-- Bytes before the body: prefix0, license, checksum. -/
abbrev hdrLen : Nat := 9
/-- Trailer bytes. -/
abbrev trlLen : Nat := 6
/-- `HDRLEN + TRLLEN`: the KeyBuffer is this much longer than the name. -/
abbrev ovh : Nat := hdrLen + trlLen
/-- Least KeyBuffer length. -/
abbrev lenMin : Nat := ovh + nMin
/-- Greatest KeyBuffer length. -/
abbrev lenMax : Nat := ovh + nMax
/-- Bytes of `BUF`. -/
abbrev bufCap : Nat := lenMax
/-- Bytes of `NAME`. -/
abbrev nameCap : Nat := nMax
/-- Characters of `TOK`. -/
abbrev tokCap : Nat := 2 * lenMax + 2
/-- The value of prefix0. -/
def tag : Byte := 0x70
/-- The license word, kept as the source's constant expression (spec/30_encoding.md rule R51);
it is 0x036539FF. -/
def lic32 : Word := (0x03643050 &&& 0xFFFDFFFF) ||| 0x000109AF
/-- The checksum multiplier. -/
def chkMul : Word := 0x11121
/-- trailer[4]. -/
def t4Const : Byte := 114
/-- The high nibble of trailer[5]. -/
def t5High : Byte := 9
/-- The kind of the checksum's `>> 26` (decision D10, conflict C1). Assumption log 15. -/
def shrKind : ShrKind := .arithmetic
/-- The buffer index of prefix0, of the license and of the checksum field, and the body's first
(spec/20_memory.md rule R33). -/
abbrev prefixAt : Nat := 0
abbrev licenseAt : Nat := 1
abbrev checksumAt : Nat := 5
abbrev bodyAt : Nat := hdrLen

/-- The character codes of the brackets (spec/30_encoding.md rule R53). Assumption log 16. -/
def charOpen : Byte := 0x3C
def charClose : Byte := 0x3E

end Sys2Proof.Machine.Params
end

