-- ==== Sys2Proof/Machine/State.lean ====
section
/-! DEFINITION. The state of one KEP instance: the elements of spec/10_state.md rule R13, the host's
command port, and the order in which the agents move; the reasons a step can stop; the state after
reset (rule R28). -/

namespace Sys2Proof.Machine

/-- A byte store as data: (index, byte) pairs, indices rising, no pair holding what an unlisted index
reads as (`Store.wf`, Machine/Ops.lean). -/
abbrev Store := List Host.Cell

/-- What an index that is not listed reads as: 0, the content of every byte after reset (R28).
Assumption log 9. -/
def Store.unlisted : Byte := 0

/-- A store all of whose bytes are 0. -/
def Store.zeroed : Store := []

/-- The three byte stores, each its own index space (spec/20_memory.md rule R32). -/
structure Memory where
  /-- `NAME[0..31]`, the caller's name bytes (R14). -/
  name : Store
  /-- `BUF[0..46]`, the KeyBuffer (R15). -/
  buf : Store
  /-- `TOK[0..95]`, the token's character codes (R16). -/
  tok : Store
deriving DecidableEq, Repr

/-- One move of one agent (spec/40_sequencer.md rule R67, spec/70_reset_and_hazards.md rule R153).
Assumption log 1 and 12. -/
inductive Turn where
  /-- The host presents a command word. -/
  | host (w : PortWord)
  /-- The sequencer takes its step, if it has one. -/
  | sequencer
  /-- The reset pin is asserted (R143). -/
  | resetPin
deriving DecidableEq, Repr

/-- The whole state. `STATUS` is a function of `upc` (R24, Machine/Flags.lean), not a field. -/
structure State where
  /-- `NAME`, `BUF` and `TOK`. -/
  mem : Memory
  /-- `NLEN`, the name length `n` (R22). -/
  nlen : BitVec 6
  /-- `H`, the rolling hash (R17). -/
  h : Word
  /-- `DENOM`, the trailer divisor (R20). -/
  denom : Byte
  /-- `Q`, the trailer quotient (R21). -/
  q : Byte
  /-- `I`, the position index of the loops (R19). -/
  i : BitVec 6
  /-- `UPC`, the sequence register (R18). -/
  upc : UopCode
  /-- `TLEN`, how many characters of `TOK` are valid (R23). -/
  tlen : BitVec 7
  /-- THE MODEL'S OWN: the word KEP last returned, to a host command (spec/30_encoding.md rule R56) or to the
  reset pin (spec/70_reset_and_hazards.md rule R153).
  Assumption log 2. -/
  response : PortWord
  /-- THE MODEL'S OWN: the moves still to come, the next one first. When none is left the sequencer keeps
  moving. Assumption log 1 and 3. -/
  turns : List Turn
deriving DecidableEq, Repr

/-- Faults of the model: an index outside a store, which spec/20_memory.md rule R32 says does not exist.
The spec has no access fault (spec/60_exceptions.md rule R129) and no run from reset meets one
(rule R40). All three are SAFE: the model stops where the spec gives no meaning. Assumption log 7. -/
inductive Fault where
  /-- Raised by ASM.BODY when `NLEN > 32`, and by LDNAME with an index no word encodes. Safe. -/
  | nameIndexOutside (a : Nat)
  /-- Raised by a UOP that reaches `BUF` beyond index 46. Safe. -/
  | bufIndexOutside (a : Nat)
  /-- Raised by FMT.BYTE, FMT.CLOSE and RDTOK beyond index 95 of `TOK`. Safe. -/
  | tokIndexOutside (a : Nat)
deriving DecidableEq, Repr

/-- Refusals of the model. -/
inductive Refusal where
  /-- An operation that has no meaning yet; raised by exec's arms alone. Safe. -/
  | notModelled (mnemonic : String)
  /-- START, not BUSY, with `NLEN` outside 5..32 (spec/40_sequencer.md rule R72: "A model **refuses** such
  a START"). Raised by START alone. Safe. Assumption log 6. -/
  | startLengthOutOfRange
deriving DecidableEq, Repr

/-- What one step or one operation answers. -/
abbrev Out := Host.Outcome State Fault Refusal

/-- The state right after reset: every element 0 (R28), no command answered, no move scheduled. -/
def State.reset : State where
  mem := ⟨Store.zeroed, Store.zeroed, Store.zeroed⟩
  nlen := 0
  h := 0
  denom := 0
  q := 0
  i := 0
  upc := 0
  tlen := 0
  response := 0
  turns := []

end Sys2Proof.Machine
end

