-- ==== Sys2Proof/Machine/Ops.lean ====
section
/-! DEFINITION. The named operations over the stores and registers: bytes and blocks of a store, one
update per state element, the bounded accesses of spec/20_memory.md, how a micro-operation moves `UPC`
and `I` (spec/40_sequencer.md rule R74), taking the exception InvalidName (spec/60_exceptions.md rule
R131), and reset (rule R76). -/

namespace Sys2Proof.Machine

/-! ## Stores -/

/-- One byte of a store. -/
def Store.read : Store → Nat → Byte
  | [], _ => Store.unlisted
  | (k, b) :: m, a => if k = a then b else Store.read m a

/-- A store without index `a`. -/
def Store.remove : Store → Nat → Store
  | [], _ => []
  | (k, b) :: m, a => if k = a then Store.remove m a else (k, b) :: Store.remove m a

/-- A store with the pair `(a, v)` put before the first larger index. -/
def Store.put : Store → Nat → Byte → Store
  | [], a, v => [(a, v)]
  | (k, b) :: m, a, v => if a < k then (a, v) :: (k, b) :: m else (k, b) :: Store.put m a v

/-- Write one byte, keeping the canonical form: a byte equal to what an unlisted index reads as is not
listed. -/
def Store.write (m : Store) (a : Nat) (v : Byte) : Store :=
  if v = Store.unlisted then m.remove a else (m.remove a).put a v

/-- Write consecutive bytes from index `a` up. -/
def Store.writeBlock : Store → Nat → List Byte → Store
  | m, _, [] => m
  | m, a, v :: vs => Store.writeBlock (m.write a v) (a + 1) vs

/-- Read `n` consecutive bytes from index `a` up. -/
def Store.readBlock (m : Store) (a n : Nat) : List Byte :=
  (List.range n).map fun k => m.read (a + k)

/-- The canonical form of a store of `cap` bytes: indices strictly rising from `lo` up and below `cap`,
no listed byte equal to what an unlisted index reads as. -/
def Store.wfFrom (cap : Nat) : Nat → Store → Bool
  | _, [] => true
  | lo, (k, b) :: m =>
    decide (lo ≤ k) && decide (k < cap) && decide (b ≠ Store.unlisted) && Store.wfFrom cap (k + 1) m

/-- The canonical form of a store of `cap` bytes. -/
def Store.wf (cap : Nat) (m : Store) : Bool := Store.wfFrom cap 0 m

/-- The canonical form of the memory: each store's own, within its capacity (spec/20_memory.md R32). -/
def Memory.wf (m : Memory) : Bool :=
  m.name.wf Params.nameCap && m.buf.wf Params.bufCap && m.tok.wf Params.tokCap

/-! ## One update per state element -/

def State.setName (s : State) (m : Store) : State := { s with mem := { s.mem with name := m } }
def State.setBuf (s : State) (m : Store) : State := { s with mem := { s.mem with buf := m } }
def State.setTok (s : State) (m : Store) : State := { s with mem := { s.mem with tok := m } }
def State.setNlen (s : State) (v : BitVec 6) : State := { s with nlen := v }
def State.setH (s : State) (v : Word) : State := { s with h := v }
def State.setDenom (s : State) (v : Byte) : State := { s with denom := v }
def State.setQ (s : State) (v : Byte) : State := { s with q := v }
def State.setI (s : State) (v : BitVec 6) : State := { s with i := v }
def State.setUpc (s : State) (v : UopCode) : State := { s with upc := v }
def State.setTlen (s : State) (v : BitVec 7) : State := { s with tlen := v }
def State.setResponse (s : State) (v : PortWord) : State := { s with response := v }
def State.setTurns (s : State) (v : List Turn) : State := { s with turns := v }

/-! ## Reading the stores

An index outside the store reads as an unlisted one; operations read through the bounded accesses below
(assumption log 24). -/

/-- `NAME[a]`. -/
def State.nameAt (s : State) (a : Nat) : Byte := s.mem.name.read a
/-- `BUF[a]`. -/
def State.bufAt (s : State) (a : Nat) : Byte := s.mem.buf.read a
/-- `TOK[a]`. -/
def State.tokAt (s : State) (a : Nat) : Byte := s.mem.tok.read a

/-! ## Names that are not state (spec/10_state.md rule R25) -/

/-- `n`, the name length. -/
def State.n (s : State) : Nat := s.nlen.toNat
/-- `LEN = 15 + NLEN`, the KeyBuffer length. -/
def State.len (s : State) : Nat := Params.ovh + s.n
/-- `TR = 9 + NLEN`, the buffer index of trailer[0]. -/
def State.tr (s : State) : Nat := Params.hdrLen + s.n
/-- The position index as a number. -/
def State.pos (s : State) : Nat := s.i.toNat
/-- `5 <= NLEN <= 32`: the lengths START has a meaning with (spec/40_sequencer.md rule R72). -/
def State.lenOk (s : State) : Bool := decide (Params.nMin ≤ s.n) && decide (s.n ≤ Params.nMax)
/-- `NAME[0..NLEN-1]`, the name. -/
def State.nameBytes (s : State) : List Byte := s.mem.name.readBlock 0 s.n
/-- `BUF[0..LEN-1]`, the KeyBuffer. -/
def State.keyBuffer (s : State) : List Byte := s.mem.buf.readBlock 0 s.len
/-- `TOK[0..TLEN-1]`, the token. -/
def State.token (s : State) : List Byte := s.mem.tok.readBlock 0 s.tlen.toNat

/-! ## Bounded accesses -/

/-- After an operation's effect, an update of the state; a stop stays a stop. -/
def andThen (o : Out) (f : State → State) : Out :=
  match o with
  | .next s => .next (f s)
  | .fault r => .fault r
  | .refused r => .refused r

/-- `MemRead(a, 1)` (spec/00_scope.md rule R10): `BUF[a]`, for an index `BUF` has. -/
def loadBuf (s : State) (a : Nat) (k : Byte → Out) : Out :=
  if a < Params.bufCap then k (s.bufAt a) else .fault (.bufIndexOutside a)

/-- `TOK[a]`, for an index `TOK` has. -/
def loadTok (s : State) (a : Nat) (k : Byte → Out) : Out :=
  if a < Params.tokCap then k (s.tokAt a) else .fault (.tokIndexOutside a)

/-- Write consecutive bytes of `BUF` from index `a`, all in one step (spec/20_memory.md rule R36). -/
def storeBuf (s : State) (a : Nat) (vs : List Byte) : Out :=
  if a + vs.length ≤ Params.bufCap then .next (s.setBuf (s.mem.buf.writeBlock a vs))
  else .fault (.bufIndexOutside (a + vs.length - 1))

/-- The four bytes of a word, least significant first (spec/20_memory.md rules R34, R35). -/
def le32 (v : Word) : List Byte :=
  [v.extractLsb' 0 8, v.extractLsb' 8 8, v.extractLsb' 16 8, v.extractLsb' 24 8]

/-- `MemWrite(a, 1, v)` (spec/00_scope.md rule R10). -/
def memWrite1 (s : State) (a : Nat) (v : Byte) : Out := storeBuf s a [v]

/-- `MemWrite(a, 4, v)`, little-endian (spec/00_scope.md rule R10). -/
def memWrite4 (s : State) (a : Nat) (v : Word) : Out := storeBuf s a (le32 v)

/-- Write consecutive characters of `TOK` from index `a`. -/
def storeTok (s : State) (a : Nat) (vs : List Byte) : Out :=
  if a + vs.length ≤ Params.tokCap then .next (s.setTok (s.mem.tok.writeBlock a vs))
  else .fault (.tokIndexOutside (a + vs.length - 1))

/-- Write `NAME[a]`. -/
def storeName (s : State) (a : Nat) (v : Byte) : Out :=
  if a < Params.nameCap then .next (s.setName (s.mem.name.write a v))
  else .fault (.nameIndexOutside a)

/-- Copy `n` bytes of `NAME` from index 0 into `BUF` from index `a` (spec/41_assembler.md rule R87). -/
def copyName (s : State) (a n : Nat) : Out :=
  if n ≤ Params.nameCap then storeBuf s a (s.mem.name.readBlock 0 n)
  else .fault (.nameIndexOutside (n - 1))

/-! ## Sequencing (spec/40_sequencer.md rule R74) -/

/-- `next`: `UPC <- UPC + 1; I <- 0`. -/
def nextUop (s : State) : State := (s.setUpc (s.upc + 1)).setI 0

/-- The end of a loop UOP: `if I + 1 < LEN then I <- I + 1 else next`. -/
def loopUop (s : State) : State := if s.pos + 1 < s.len then s.setI (s.i + 1) else nextUop s

/-- TAKING THE EXCEPTION (spec/60_exceptions.md rule R131): `DENOM <- 0; UPC <- 20; I <- 0`, and nothing
else. There is no handler, nothing is saved and no mode changes (rule R132); ERROR is left by START or
RESET (rule R136), there is no return operation. -/
def raiseInvalidName (s : State) : State := ((s.setDenom 0).setUpc 20).setI 0

/-! ## The host's side -/

/-- Return a word to the host (spec/30_encoding.md rule R56, spec/70_reset_and_hazards.md rule R153). -/
def respond (s : State) (v : PortWord) : State := s.setResponse v

/-- Every element takes its reset value (spec/40_sequencer.md rule R76, spec/10_state.md rule R28). What
the agents will do next is no element of KEP and stays; so does the word last returned, which the caller sets. -/
def resetElements (s : State) : State := (State.reset.setResponse s.response).setTurns s.turns

end Sys2Proof.Machine
end

