-- ==== Sys2Proof/Machine/Operands.lean ====
section
/-! DEFINITION. The arithmetic of spec/00_scope.md rules R8 and R9, and the operands the UOPs read:
`b0..b4` (spec/42_trailer.md rule R89) and `k` (spec/43_checksum.md rule R107). -/

namespace Sys2Proof.Machine

/-! ## Byte arithmetic (R8): 8-bit wraparound -/

abbrev add8 (a b : Byte) : Byte := a + b
abbrev sub8 (a b : Byte) : Byte := a - b
abbrev mul8 (a b : Byte) : Byte := a * b
abbrev not8 (a : Byte) : Byte := ~~~a
/-- `(a * 2^s) mod 256`. R8 gives it for a shift count in 0..7. DESIGN CHOICE: any count, by the same formula,
so 0 from 8 up (assumption log 24). -/
abbrev shl8 (a : Byte) (s : Nat) : Byte := a <<< s
/-- Unsigned quotient. R8 defines it for a divisor other than 0. DESIGN CHOICE: 0 at divisor 0 (assumption
log 24). -/
abbrev udiv8 (a b : Byte) : Byte := a / b
/-- Unsigned remainder. R8 defines it for a divisor other than 0. DESIGN CHOICE: the dividend at divisor 0
(assumption log 24). -/
abbrev urem8 (a b : Byte) : Byte := a % b

/-- The high nibble `v[7:4]` and the low nibble `v[3:0]` of a byte (R7). -/
def hiNibble (v : Byte) : Nibble := v.extractLsb' 4 4
def loNibble (v : Byte) : Nibble := v.extractLsb' 0 4

/-- Two nibbles, each in the low bits of a byte, combined into one byte: `shl8(hi, 4) | lo`
(assumption log 24 for bytes above 15). -/
def nibbles (hi lo : Byte) : Byte := shl8 hi 4 ||| lo

/-! ## Word arithmetic (R9) -/

abbrev add32 (a b : Word) : Word := a + b
abbrev mul32 (a b : Word) : Word := a * b
abbrev shl32 (a : Word) (s : Nat) : Word := a <<< s
abbrev lsr32 (a : Word) (s : Nat) : Word := a >>> s
abbrev asr32 (a : Word) (s : Nat) : Word := a.sshiftRight s
/-- `zext_32` (R10). -/
abbrev zext32 (b : Byte) : Word := b.setWidth 32

/-- The right shift of a given kind (`SHRKIND`). -/
def shr32 : ShrKind → Word → Nat → Word
  | .arithmetic, a, s => asr32 a s
  | .logical, a, s => lsr32 a s

/-! ## Operands in the buffer -/

/-- `b0..b4 = BUF[9..13]`, the first five body bytes (R89). -/
def State.b0 (s : State) : Byte := s.bufAt 9
def State.b1 (s : State) : Byte := s.bufAt 10
def State.b2 (s : State) : Byte := s.bufAt 11
def State.b3 (s : State) : Byte := s.bufAt 12
def State.b4 (s : State) : Byte := s.bufAt 13

end Sys2Proof.Machine
end

