-- ==== Sys2Proof/Machine/Assembler.lean ====
section
/-! DEFINITION. Stage 1, the Layout Assembler (spec/41_assembler.md). -/

namespace Sys2Proof.Machine

/-- ASM.CLR (R84): all 47 bytes of `BUF` become 0, whatever `NLEN` is. -/
def execAsmClr (s : State) : Out := .next (nextUop (s.setBuf Store.zeroed))

/-- ASM.TAG (R85): `BUF[0] <- 0x70`. -/
def execAsmTag (s : State) : Out := andThen (memWrite1 s Params.prefixAt Params.tag) nextUop

/-- ASM.LIC (R86): the license word, little-endian, at index 1. -/
def execAsmLic (s : State) : Out := andThen (memWrite4 s Params.licenseAt Params.lic32) nextUop

/-- ASM.BODY (R87): `BUF[9+a] <- NAME[a]` for `a = 0 .. n-1`, all in one step. -/
def execAsmBody (s : State) : Out := andThen (copyName s Params.bodyAt s.n) nextUop

/-- `ASSEMBLE` (R88): the KeyBuffer after the stage, as a function of the name.
For a name whose length is outside 5..32: assumption log 23. -/
def assemble (name : List Byte) : List Byte :=
  [Params.tag, 0xFF, 0x39, 0x65, 0x03, 0, 0, 0, 0] ++ name ++ List.replicate Params.trlLen 0

end Sys2Proof.Machine
end

