-- ==== Sys2Proof/Machine/Checksum.lean ====
section
/-! DEFINITION. Stage 3, the Checksum Computer (spec/43_checksum.md). -/

namespace Sys2Proof.Machine

/-- `a = k * 0x11121 + (h << 3)` (R108), `k` zero-extended (R107). -/
def chkSum (h : Word) (k : Byte) : Word := add32 (mul32 (zext32 k) Params.chkMul) (shl32 h 3)

/-- One folding step for a shift of a given kind: `a + (a >> 26)` (R108). -/
def chkFoldWith (kind : ShrKind) (h : Word) (k : Byte) : Word :=
  let a := chkSum h k
  add32 a (shr32 kind a 26)

/-- One folding step of KEP: the shift is arithmetic (R108, decision D10). -/
def chkFold (h : Word) (k : Byte) : Word := chkFoldWith Params.shrKind h k

/-- CHK.INIT (R106): `H <- 0`. -/
def execChkInit (s : State) : Out := .next (nextUop (s.setH 0))

/-- CHK.STEP (R108): fold `BUF[I]` into `H`; a loop. -/
def execChkStep (s : State) : Out :=
  loadBuf s s.pos fun k => .next (loopUop (s.setH (chkFold s.h k)))

/-- CHK.WR (R109): `H`, little-endian, into `BUF[5..8]`. -/
def execChkWr (s : State) : Out := andThen (memWrite4 s Params.checksumAt s.h) nextUop

/-- `CHECKSUM` (R110): the hash of a byte sequence. -/
def checksum (bs : List Byte) : Word := bs.foldl chkFold 0

end Sys2Proof.Machine
end

