-- ==== Sys2Proof/Machine/Flags.lean ====
section
/-! DEFINITION. KEP has no condition flags; the one status it shows is `STATUS`, three bits computed from
`UPC` (spec/10_state.md rule R24), and the token length visible with it (spec/40_sequencer.md rule R75). -/

namespace Sys2Proof.Machine

/-- `STATUS.BUSY = (1 <= UPC <= 18)`. -/
def State.busy (s : State) : Bool := decide (1 ≤ s.upc.toNat) && decide (s.upc.toNat ≤ 18)

/-- `STATUS.DONE = (UPC = 19)`. -/
def State.isDone (s : State) : Bool := s.upc == 19

/-- `STATUS.ERR = (UPC = 20)`. -/
def State.isErr (s : State) : Bool := s.upc == 20

/-- `STATUS`: bit 0 BUSY, bit 1 DONE, bit 2 ERR. -/
def State.status (s : State) : BitVec 3 :=
  BitVec.ofBool s.isErr ++ BitVec.ofBool s.isDone ++ BitVec.ofBool s.busy

/-- `TLENvis`: `TLEN` in DONE, 0 otherwise (spec/40_sequencer.md rule R75). -/
def State.tlenVis (s : State) : BitVec 7 := if s.isDone then s.tlen else 0

/-- The response word of RDSTAT (spec/30_encoding.md rule R58):
`0 || TLENvis[6:0] || 00000 || ERR || DONE || BUSY`. -/
def State.statusWord (s : State) : PortWord := 0#1 ++ s.tlenVis ++ 0#5 ++ s.status

end Sys2Proof.Machine
end

