-- ==== Sys2Proof/Machine/Commands.lean ====
section
/-! DEFINITION. The seven host commands, the reset pin and the reserved word (spec/40_sequencer.md rules R68
to R77, spec/70_reset_and_hazards.md rule R153, spec/30_encoding.md rule R60). Every answer is the response word R58 gives. -/

namespace Sys2Proof.Machine

/-- NOP (R68): nothing; response 0x0000. -/
def execNop (s : State) : Out := .next (respond s 0)

/-- LDLEN (R69): `NLEN <- len` unless BUSY (R77). -/
def execLdlen (len : Nat) (s : State) : Out :=
  if s.busy then .next (respond s 0) else .next (respond (s.setNlen (BitVec.ofNat 6 len)) 0)

/-- LDNAME (R70): `NAME[idx] <- data` unless BUSY (R77). -/
def execLdname (idx : Nat) (data : Byte) (s : State) : Out :=
  if s.busy then .next (respond s 0) else andThen (storeName s idx data) fun t => respond t 0

/-- Begin a run (R71): `TLEN <- 0; I <- 0; UPC <- 1`. -/
def beginRun (s : State) : State := ((s.setTlen 0).setI 0).setUpc 1

/-- START (R71): ignored while BUSY (R77); refused when `NLEN` is outside 5..32 (R72; assumption log 6);
otherwise begins a run. -/
def execStart (s : State) : Out :=
  if s.busy then .next (respond s 0)
  else if s.lenOk then .next (respond (beginRun s) 0)
  else .refused .startLengthOutOfRange

/-- RDTOK (R73): the character in DONE below `TLEN`, 0x0000 otherwise. -/
def execRdtok (tidx : Nat) (s : State) : Out :=
  if s.isDone && decide (tidx < s.tlen.toNat) then
    loadTok s tidx fun c => .next (respond s (c.setWidth 16))
  else .next (respond s 0)

/-- RDSTAT (R75): the visible token length and `STATUS`. -/
def execRdstat (s : State) : Out := .next (respond s s.statusWord)

/-- RESET (R76): acts in any state, BUSY included. -/
def execReset (s : State) : Out := .next (respond (resetElements s) 0)

/-- The reset pin does as RESET does (R76; spec/70_reset_and_hazards.md rules R143, R153): all state 0 in any
state, and 0x0000 returned. Assumption log 12. -/
def execResetPin (s : State) : Out := .next (respond (resetElements s) 0)

/-- A reserved command word executes as NOP (R60): no element changes, response 0x0000. -/
def execReserved (s : State) : Out := .next (respond s 0)

end Sys2Proof.Machine
end

