-- ==== Sys2Proof/Machine/Formatter.lean ====
section
/-! DEFINITION. Stage 5, the Hex Formatter (spec/45_formatter.md). -/

namespace Sys2Proof.Machine

/-- `HEXD` (R122): the code of a nibble's lowercase hexadecimal digit. -/
def hexd (d : Nibble) : Byte := if d ≤ 9 then 0x30 + d.setWidth 8 else 0x57 + d.setWidth 8

/-- The two digits of a byte, high nibble first (R124, decision D22). -/
def hexPair (v : Byte) : List Byte := [hexd (hiNibble v), hexd (loNibble v)]

/-- FMT.OPEN (R123): `TOK[0] <- '<'; TLEN <- 1`. -/
def execFmtOpen (s : State) : Out :=
  andThen (storeTok s 0 [Params.charOpen]) fun t => nextUop (t.setTlen 1)

/-- FMT.BYTE (R124): the two digits of `BUF[I]` at `TOK[1 + 2*I]` and `TOK[2 + 2*I]`; a loop. -/
def execFmtByte (s : State) : Out :=
  loadBuf s s.pos fun v =>
    andThen (storeTok s (1 + 2 * s.pos) (hexPair v)) fun t =>
      loopUop (t.setTlen (BitVec.ofNat 7 (3 + 2 * s.pos)))

/-- FMT.CLOSE (R125): `TOK[2*LEN + 1] <- '>'; TLEN <- 2*LEN + 2`; with `next` the run is DONE. -/
def execFmtClose (s : State) : Out :=
  andThen (storeTok s (2 * s.len + 1) [Params.charClose]) fun t =>
    nextUop (t.setTlen (BitVec.ofNat 7 (2 * s.len + 2)))

/-- `FORMAT` (R126): the token of a byte sequence. -/
def format (bs : List Byte) : List Byte :=
  Params.charOpen :: (bs.flatMap hexPair ++ [Params.charClose])

end Sys2Proof.Machine
end

