-- ==== Sys2Proof/Machine/Obfuscation.lean ====
section
/-! DEFINITION. Stage 4, the Obfuscation Encoder (spec/44_obfuscation.md). -/

namespace Sys2Proof.Machine

/-- The inner shift count of the mask, computed in unbounded integers: `(1 << (i & 0x1F)) & 7` (R114). -/
def maskShift (i : Nat) : Nat := (1 <<< (i &&& 0x1F)) &&& 7

/-- `MASK(i) = (0xFF - i) - (1 << s)` in 8 bits (R114). Assumption log 22 for positions 29..46. R114
defines it for positions 0..46. DESIGN CHOICE: the same formula at other positions (assumption log 24). -/
def mask (i : Nat) : Byte := sub8 (sub8 0xFF (BitVec.ofNat 8 i)) (shl8 1 (maskShift i))

/-- `REV8` (R116): bit `k` of the result is bit `7 - k` of `v`. -/
def rev8 (v : Byte) : Byte :=
  v.extractLsb' 0 1 ++ v.extractLsb' 1 1 ++ v.extractLsb' 2 1 ++ v.extractLsb' 3 1 ++
    v.extractLsb' 4 1 ++ v.extractLsb' 5 1 ++ v.extractLsb' 6 1 ++ v.extractLsb' 7 1

/-- `OBF(i, v) = REV8(v ^ MASK(i))` (R117). -/
def obf (i : Nat) (v : Byte) : Byte := rev8 (v ^^^ mask i)

/-- `DEOBF(i, y) = REV8(y) ^ MASK(i)` (R118); no operation of KEP computes it. -/
def deobf (i : Nat) (y : Byte) : Byte := rev8 y ^^^ mask i

/-- OBF.STEP (R117): `BUF[I] <- OBF(I, BUF[I])`; a loop. -/
def execObfStep (s : State) : Out :=
  loadBuf s s.pos fun v => andThen (memWrite1 s s.pos (obf s.pos v)) loopUop

/-- The whole stage on a byte sequence (R113, R117). -/
def obfuscate (bs : List Byte) : List Byte := bs.mapIdx obf

end Sys2Proof.Machine
end

