-- ==== Sys2Proof/Machine/Trailer.lean ====
section
/-! DEFINITION. Stage 2, the Trailer Deriver (spec/42_trailer.md). The formulas stand once, as functions
of the bytes they read; the micro-operations and `TRAILER` (R100) both use them. -/

namespace Sys2Proof.Machine

/-! ## The divisor and the quotient -/

/-- `d = (b0 - b3) + 1` in 8 bits (R90). -/
def divisor (b0 b3 : Byte) : Byte := add8 (sub8 b0 b3) 1

/-- `QFN_DOC` (R92): the source's sentence, read literally. R92 defines it for `d != 0`. DESIGN CHOICE:
0 at `d = 0` (assumption log 24). -/
def qfnDoc : QuotFn := fun b0 b1 d => udiv8 (mul8 b0 b1) d

/-- `QFN_REM` (R92): the spec's conjecture, the remainder. R92 defines it for `d != 0`. DESIGN CHOICE:
`mul8(b0, b1)` at `d = 0` (assumption log 24). -/
def qfnRem : QuotFn := fun b0 b1 d => urem8 (mul8 b0 b1) d

/-! ## The five written bytes -/

/-- trailer[1] (R93). -/
def trailer1 (b0 b1 b2 b3 b4 : Byte) : Byte :=
  nibbles (((b0 ||| b1) ^^^ add8 (b2 ||| b3) b4) &&& 0xF) ((b0 ^^^ b1 ^^^ b2 ^^^ b3 ^^^ b4) &&& 0xF)

/-- trailer[2] (R94). -/
def trailer2 (q b4 : Byte) : Byte := nibbles (sub8 q b4 &&& 0xF) (mul8 q b4 &&& 0xF)

/-- trailer[3] (R95): the products first, the exclusive-ors second (decision D14; assumption log 17). -/
def trailer3 (b0 b1 b2 b3 b4 : Byte) : Byte :=
  nibbles ((mul8 (add8 b2 b3) (sub8 b0 b1) ^^^ not8 b4) &&& 0xF)
    ((mul8 (sub8 b2 b3) (add8 b0 b1) ^^^ b4) &&& 0xF)

/-- trailer[5] (R98). -/
def trailer5 (b0 b1 b2 b3 b4 : Byte) : Byte :=
  nibbles Params.t5High (sub8 (sub8 (add8 b0 b1) b2) (add8 b3 b4) &&& 0xF)

/-- The value the source computes for trailer[4] and overwrites (R97), a GHOST: no state holds it and
nothing depends on it (decisions D12, D26; assumption log 14). -/
def trailer4Dead (b0 b1 b2 b3 b4 : Byte) : Byte :=
  let x := sub8 (add8 (add8 b0 b1) b2) (add8 b3 b4)
  if ((x &&& 0xF) ^^^ 255) &&& 8 ≠ 0 then 255 ^^^ 8 else 255

/-! ## The micro-operations -/

/-- TRL.DEN (R90): write the divisor; when it is 0 take the exception InvalidName (spec/60_exceptions.md
rule R131), else `next`. The guard is applied whichever instance `QFN` is (decision D24). -/
def execTrlDen (s : State) : Out :=
  let d := divisor s.b0 s.b3
  if d = 0 then .next (raiseInvalidName (s.setDenom d)) else .next (nextUop (s.setDenom d))

/-- TRL.Q with a given quotient function. -/
def trlQWith (f : QuotFn) (s : State) : State := nextUop (s.setQ (f s.b0 s.b1 s.denom))

/-- TRL.Q (R91): `Q <- QFN(b0, b1, DENOM)`, `QFN` free. At `DENOM = 0`, which no run reaches, the value is
free too (assumption log 4 and 5). -/
def execTrlQ (s : State) : Out := .next (trlQWith Config.qfn s)

/-- Write trailer[j] and go on. -/
def writeTrailer (s : State) (j : Nat) (v : Byte) : Out := andThen (memWrite1 s (s.tr + j) v) nextUop

/-- TRL.T1 (R93). -/
def execTrlT1 (s : State) : Out := writeTrailer s 1 (trailer1 s.b0 s.b1 s.b2 s.b3 s.b4)

/-- TRL.T2 (R94). -/
def execTrlT2 (s : State) : Out := writeTrailer s 2 (trailer2 s.q s.b4)

/-- TRL.T3 (R95). -/
def execTrlT3 (s : State) : Out := writeTrailer s 3 (trailer3 s.b0 s.b1 s.b2 s.b3 s.b4)

/-- TRL.T4 (R96): the literal 114; the computation before the overwrite is folded (R97). -/
def execTrlT4 (s : State) : Out := writeTrailer s 4 Params.t4Const

/-- TRL.T5 (R98). -/
def execTrlT5 (s : State) : Out := writeTrailer s 5 (trailer5 s.b0 s.b1 s.b2 s.b3 s.b4)

/-- `TRAILER` (R100): the six trailer bytes, or none when InvalidName is raised. -/
def trailer (f : QuotFn) (b0 b1 b2 b3 b4 : Byte) : Option (List Byte) :=
  let d := divisor b0 b3
  if d = 0 then none
  else some [0, trailer1 b0 b1 b2 b3 b4, trailer2 (f b0 b1 d) b4, trailer3 b0 b1 b2 b3 b4,
    Params.t4Const, trailer5 b0 b1 b2 b3 b4]

end Sys2Proof.Machine
end

