-- ==== Sys2Proof/Syntax.lean ====
section
/-! DEFINITION. The operations of KEP: one constructor per row of spec/opcode_table.json, 18
micro-operations (spec/30_encoding.md rule R55) and 7 host commands (rule R57). -/

namespace Sys2Proof

/-- An operation of KEP. A micro-operation has no operand field (R54); the operands of a command are the
unsigned fields of its word, used as they stand (R58). Lengths and indices are numbers, bounded by
`Instr.wellFormed`; the name byte is a byte. -/
inductive Instr where
  /-- UOP 1: zero all of `BUF` (R84). -/
  | asmClr
  /-- UOP 2: the tag byte (R85). -/
  | asmTag
  /-- UOP 3: the license word (R86). -/
  | asmLic
  /-- UOP 4: the name into the body (R87). -/
  | asmBody
  /-- UOP 5: the divisor and its guard (R90). -/
  | trlDen
  /-- UOP 6: the quotient (R91). -/
  | trlQ
  /-- UOP 7: trailer[1] (R93). -/
  | trlT1
  /-- UOP 8: trailer[2] (R94). -/
  | trlT2
  /-- UOP 9: trailer[3] (R95). -/
  | trlT3
  /-- UOP 10: trailer[4] (R96). -/
  | trlT4
  /-- UOP 11: trailer[5] (R98). -/
  | trlT5
  /-- UOP 12: clear the hash (R106). -/
  | chkInit
  /-- UOP 13, a loop: fold one byte into the hash (R108). -/
  | chkStep
  /-- UOP 14: the hash into the checksum field (R109). -/
  | chkWr
  /-- UOP 15, a loop: obfuscate one byte (R117). -/
  | obfStep
  /-- UOP 16: the opening bracket (R123). -/
  | fmtOpen
  /-- UOP 17, a loop: two hex digits (R124). -/
  | fmtByte
  /-- UOP 18: the closing bracket, end of the run (R125). -/
  | fmtClose
  /-- Command 000 (R68). -/
  | nop
  /-- Command 001: set the name length, `len` = bits 5..0 (R69). -/
  | ldlen (len : Nat)
  /-- Command 010: load one name byte, `idx` = bits 12..8, `data` = bits 7..0 (R70). -/
  | ldname (idx : Nat) (data : Byte)
  /-- Command 011: begin a run (R71). -/
  | start
  /-- Command 100: read one token character, `tidx` = bits 6..0 (R73). -/
  | rdtok (tidx : Nat)
  /-- Command 101: read the status and the visible token length (R75). -/
  | rdstat
  /-- Command 111: reset (R76). -/
  | reset
deriving DecidableEq, Repr

end Sys2Proof
end

