-- ==== Sys2Proof/Machine/Dispatch.lean ====
section
/-! DEFINITION. One operation's effect: one arm per constructor of Instr. -/

namespace Sys2Proof.Machine

def exec (i : Instr) (s : State) : Host.Outcome State Fault Refusal :=
  match i with
  | .asmClr => Sys2Proof.Machine.execAsmClr s
  | .asmTag => Sys2Proof.Machine.execAsmTag s
  | .asmLic => Sys2Proof.Machine.execAsmLic s
  | .asmBody => Sys2Proof.Machine.execAsmBody s
  | .trlDen => Sys2Proof.Machine.execTrlDen s
  | .trlQ => Sys2Proof.Machine.execTrlQ s
  | .trlT1 => Sys2Proof.Machine.execTrlT1 s
  | .trlT2 => Sys2Proof.Machine.execTrlT2 s
  | .trlT3 => Sys2Proof.Machine.execTrlT3 s
  | .trlT4 => Sys2Proof.Machine.execTrlT4 s
  | .trlT5 => Sys2Proof.Machine.execTrlT5 s
  | .chkInit => Sys2Proof.Machine.execChkInit s
  | .chkStep => Sys2Proof.Machine.execChkStep s
  | .chkWr => Sys2Proof.Machine.execChkWr s
  | .obfStep => Sys2Proof.Machine.execObfStep s
  | .fmtOpen => Sys2Proof.Machine.execFmtOpen s
  | .fmtByte => Sys2Proof.Machine.execFmtByte s
  | .fmtClose => Sys2Proof.Machine.execFmtClose s
  | .nop => Sys2Proof.Machine.execNop s
  | .ldlen len => Sys2Proof.Machine.execLdlen len s
  | .ldname idx data => Sys2Proof.Machine.execLdname idx data s
  | .start => Sys2Proof.Machine.execStart s
  | .rdtok tidx => Sys2Proof.Machine.execRdtok tidx s
  | .rdstat => Sys2Proof.Machine.execRdstat s
  | .reset => Sys2Proof.Machine.execReset s

end Sys2Proof.Machine
end

