-- ==== Sys2Proof/WellFormed.lean ====
section
/-! DEFINITION. Which operations have an encoding: every operand fits the field spec/30_encoding.md
rules R56 and R58 give it. -/

namespace Sys2Proof

/-- An LDLEN length is a 6-bit field, 0..63 (R58). -/
def lenFits (len : Nat) : Bool := decide (len < 64)

/-- A `NAME` index of LDNAME is a 5-bit field, 0..31 (R56). -/
def nameIdxFits (idx : Nat) : Bool := decide (idx < 32)

/-- A `TOK` index of RDTOK is a 7-bit field, 0..127 (R56). -/
def tokIdxFits (tidx : Nat) : Bool := decide (tidx < 128)

/-- Every operand fits its field. -/
def Instr.wellFormed : Instr → Bool
  | .ldlen len => lenFits len
  | .ldname idx _ => nameIdxFits idx
  | .rdtok tidx => tokIdxFits tidx
  | .asmClr | .asmTag | .asmLic | .asmBody
  | .trlDen | .trlQ | .trlT1 | .trlT2 | .trlT3 | .trlT4 | .trlT5
  | .chkInit | .chkStep | .chkWr | .obfStep | .fmtOpen | .fmtByte | .fmtClose
  | .nop | .start | .rdstat | .reset => true

end Sys2Proof
end

