-- ==== Sys2Proof/Decode.lean ====
section
/-! DEFINITION. The two operation encodings (spec/30_encoding.md rules R54 to R61) and their decoders,
total on every code and every word; then the encoder; then the rows of rule R57 as a table. -/

namespace Sys2Proof

/-- Why a `UPC` value or a command word selects no operation. -/
inductive DecodeError where
  /-- `UPC` = 0: the sequencer is stopped, no run since reset (R55, R78). -/
  | idle
  /-- `UPC` = 19: the run ended with a token (R55, R78). -/
  | done
  /-- `UPC` = 20: the run ended with InvalidName (R55, R78). -/
  | error
  /-- `UPC` = 21..31, unreachable (R59). -/
  | reservedCode
  /-- A command word of code 110 (R60). -/
  | reservedCommand
  /-- A command word with a must-be-zero bit set (R60). -/
  | reservedBits
deriving DecidableEq, Repr

/-- The operation a value of `UPC` selects (R55). -/
def decodeUop (c : UopCode) : Except DecodeError Instr :=
  match c.toNat with
  | 0 => .error .idle
  | 1 => .ok .asmClr
  | 2 => .ok .asmTag
  | 3 => .ok .asmLic
  | 4 => .ok .asmBody
  | 5 => .ok .trlDen
  | 6 => .ok .trlQ
  | 7 => .ok .trlT1
  | 8 => .ok .trlT2
  | 9 => .ok .trlT3
  | 10 => .ok .trlT4
  | 11 => .ok .trlT5
  | 12 => .ok .chkInit
  | 13 => .ok .chkStep
  | 14 => .ok .chkWr
  | 15 => .ok .obfStep
  | 16 => .ok .fmtOpen
  | 17 => .ok .fmtByte
  | 18 => .ok .fmtClose
  | 19 => .error .done
  | 20 => .error .error
  | _ => .error .reservedCode

/-- The field of a command word from bit `lo` up, `n` bits wide, as a non-negative integer (R7). -/
def cmdField (w : PortWord) (lo n : Nat) : Nat := (w.extractLsb' lo n).toNat

/-- An operation whose must-be-zero field has to be 0 (R56, R60). -/
def ifZero (field : Nat) (i : Instr) : Except DecodeError Instr :=
  if field = 0 then .ok i else .error .reservedBits

/-- The command a 16-bit word selects, by its code in bits 15..13 and the must-be-zero bits of the code's
format (R56, R57, R60). -/
def decodeCommand (w : PortWord) : Except DecodeError Instr :=
  match cmdField w 13 3 with
  | 0 => ifZero (cmdField w 0 13) .nop
  | 1 => ifZero (cmdField w 6 7) (.ldlen (cmdField w 0 6))
  | 2 => .ok (.ldname (cmdField w 8 5) (w.extractLsb' 0 8))
  | 3 => ifZero (cmdField w 0 13) .start
  | 4 => ifZero (cmdField w 7 6) (.rdtok (cmdField w 0 7))
  | 5 => ifZero (cmdField w 0 13) .rdstat
  | 7 => ifZero (cmdField w 0 13) .reset
  | _ => .error .reservedCommand

/-- What holds an operation's encoding: the sequence register or the command port (R49, R61). -/
inductive Code where
  | uop (c : UopCode)
  | command (w : PortWord)
deriving DecidableEq, Repr

/-- The decoder of both encodings. -/
def decode : Code → Except DecodeError Instr
  | .uop c => decodeUop c
  | .command w => decodeCommand w

/-- A command word from its 3-bit code, its `idx` (or upper zero) field of 5 bits and its low 8 bits
(`CMD-W`, R56; the other two formats put zeros in their must-be-zero bits). -/
def cmdWord (code : BitVec 3) (idx : BitVec 5) (low : Byte) : PortWord := code ++ idx ++ low

/-- The encoding of an operation, from the maps of R55 and R57 and the formats of R54 and R56. An operand
outside its field has no encoding in the spec (R58, R62). DESIGN CHOICE: `encode` is total, cuts a `NAME`
index to its low 5 bits and a length or a `TOK` index to its low 8, of which a length from 64 up and a `TOK`
index from 128 up then stand in a must-be-zero bit: a reserved word (assumption log 18). -/
def encode : Instr → Code
  | .asmClr => .uop 1
  | .asmTag => .uop 2
  | .asmLic => .uop 3
  | .asmBody => .uop 4
  | .trlDen => .uop 5
  | .trlQ => .uop 6
  | .trlT1 => .uop 7
  | .trlT2 => .uop 8
  | .trlT3 => .uop 9
  | .trlT4 => .uop 10
  | .trlT5 => .uop 11
  | .chkInit => .uop 12
  | .chkStep => .uop 13
  | .chkWr => .uop 14
  | .obfStep => .uop 15
  | .fmtOpen => .uop 16
  | .fmtByte => .uop 17
  | .fmtClose => .uop 18
  | .nop => .command (cmdWord 0b000 0 0)
  | .ldlen len => .command (cmdWord 0b001 0 (BitVec.ofNat 8 len))
  | .ldname idx data => .command (cmdWord 0b010 (BitVec.ofNat 5 idx) data)
  | .start => .command (cmdWord 0b011 0 0)
  | .rdtok tidx => .command (cmdWord 0b100 0 (BitVec.ofNat 8 tidx))
  | .rdstat => .command (cmdWord 0b101 0 0)
  | .reset => .command (cmdWord 0b111 0 0)

/-- A row of the command map (R57): a word selects it when `w & mask = value`. -/
structure CommandRow where
  mnemonic : String
  value : PortWord
  mask : PortWord
deriving DecidableEq, Repr

/-- Whether a word selects a row (R57). -/
def CommandRow.selectedBy (r : CommandRow) (w : PortWord) : Bool := w &&& r.mask == r.value

/-- The seven rows of R57, `match` and `mask` as the spec prints them. -/
def commandRows : List CommandRow :=
  [⟨"NOP", 0x0000, 0xFFFF⟩, ⟨"LDLEN", 0x2000, 0xFFC0⟩, ⟨"LDNAME", 0x4000, 0xE000⟩,
   ⟨"START", 0x6000, 0xFFFF⟩, ⟨"RDTOK", 0x8000, 0xFF80⟩, ⟨"RDSTAT", 0xA000, 0xFFFF⟩,
   ⟨"RESET", 0xE000, 0xFFFF⟩]

/-- The row of R57 a command belongs to; none for a micro-operation, which no host can issue (R62). -/
def commandRowOf : Instr → Option CommandRow
  | .nop => commandRows[0]?
  | .ldlen _ => commandRows[1]?
  | .ldname _ _ => commandRows[2]?
  | .start => commandRows[3]?
  | .rdtok _ => commandRows[4]?
  | .rdstat => commandRows[5]?
  | .reset => commandRows[6]?
  | .asmClr | .asmTag | .asmLic | .asmBody
  | .trlDen | .trlQ | .trlT1 | .trlT2 | .trlT3 | .trlT4 | .trlT5
  | .chkInit | .chkStep | .chkWr | .obfStep | .fmtOpen | .fmtByte | .fmtClose => none

/-- The instruction the decoder reads from an opcode-table word of `nbits` bits: a UOP code when the row
is one byte wide (5 bits rounded up), a command word otherwise. -/
def decodeTableWord (nbits w : Nat) : Option Instr :=
  if nbits ≤ 8 then
    if w < 32 then (decodeUop (BitVec.ofNat 5 w)).toOption else none
  else
    if w < 65536 then (decodeCommand (BitVec.ofNat 16 w)).toOption else none

end Sys2Proof
end

