-- ==== Sys2Proof/Machine/Fetch.lean ====
section
/-! DEFINITION. What a step runs (spec/40_sequencer.md rules R67, R74, R78): the next turn names the
agent; the sequencer's operation is the one `UPC` selects, the host's the one its command word selects.
KEP fetches nothing from a memory (spec/00_scope.md rule R2, spec/20_memory.md rule R46). -/

namespace Sys2Proof.Machine

/-- What one step performs. -/
inductive Selected where
  /-- An operation. -/
  | run (i : Instr)
  /-- A reserved command word (spec/30_encoding.md rule R60). -/
  | reservedWord
  /-- The sequencer's turn in a state where it has no step (R78). -/
  | noStep
  /-- The reset pin (spec/70_reset_and_hazards.md rule R143). -/
  | resetPin
deriving DecidableEq, Repr

/-- The sequencer's operation: the UOP whose code is `UPC`, when there is one (R67). -/
def State.selectUop (s : State) : Selected :=
  match decodeUop s.upc with
  | .ok i => .run i
  | .error _ => .noStep

/-- The operation a command word selects (spec/30_encoding.md rules R57, R60). -/
def selectCommand (w : PortWord) : Selected :=
  match decodeCommand w with
  | .ok i => .run i
  | .error _ => .reservedWord

/-- Whose move is next: the first turn's, and with no turn left the sequencer's (assumption log 1). -/
def State.nextTurn (s : State) : Turn := s.turns.headD .sequencer

/-- What the next step performs. -/
def State.select (s : State) : Selected :=
  match s.nextTurn with
  | .host w => selectCommand w
  | .sequencer => s.selectUop
  | .resetPin => .resetPin

/-- The state with the move about to be made taken off the schedule. -/
def State.takeTurn (s : State) : State := s.setTurns s.turns.tail

/-- An opcode-table word put where the next step takes its operation from: a UOP code into `UPC` with the
sequencer's turn next, a command word as the host's next move. Assumption log 13. -/
def State.placeWord (s : State) (nbits w : Nat) : State :=
  if nbits ≤ 8 then (s.setUpc (BitVec.ofNat 5 w)).setTurns (.sequencer :: s.turns)
  else s.setTurns (.host (BitVec.ofNat 16 w) :: s.turns)

end Sys2Proof.Machine
end

