-- ==== Sys2Proof/Machine/Step.lean ====
section
/-! DEFINITION. One step of the machine: one indivisible move of one agent (spec/20_memory.md rule R42,
spec/40_sequencer.md rule R67). -/

namespace Sys2Proof.Machine

/-- One step. A sequencer's turn without an operation changes nothing (rule R78; assumption log 3). -/
def step (s : State) : Host.Outcome State Fault Refusal :=
  match s.select with
  | .run i => exec i s.takeTurn
  | .reservedWord => execReserved s.takeTurn
  | .noStep => .next s.takeTurn
  | .resetPin => execResetPin s.takeTurn

/-- The state in which the very next step runs the opcode-table word `w` of `nbits` bits. -/
def State.withFetchWord (s : State) (nbits w : Nat) : State := s.placeWord nbits w

end Sys2Proof.Machine
end

