-- ==== Sys2Proof/Machine/Reference.lean ====
section
/-! DEFINITION. `ENCODE`, what a whole run computes, as a function of the name and of the quotient
function (spec/40_sequencer.md rule R79), and the number of sequencer steps a run takes (rule R80). The
spec defines these for names of 5 to 32 bytes; what they give for another length is the MODEL'S CHOICE, no
rule of the spec (assumption log 23). -/

namespace Sys2Proof.Machine

/-- Byte `a` of a name. DESIGN CHOICE: a byte the name does not have reads as 0 (assumption log 23). -/
def nameByte (name : List Byte) (a : Nat) : Byte := name.getD a 0

/-- Whether the division guard rejects the name: `(name[0] - name[3] + 1) mod 256 = 0` (R82 c).
For a name of fewer than 4 bytes: assumption log 23. -/
def guardFails (name : List Byte) : Bool := divisor (nameByte name 0) (nameByte name 3) == 0

/-- `B1` with the four checksum bytes filled in (R79). -/
def withChecksum (bs : List Byte) : List Byte :=
  bs.take Params.checksumAt ++ le32 (checksum bs) ++ bs.drop Params.bodyAt

/-- The raw KeyBuffer of a name (spec/30_encoding.md rule R50): assembled, with the given trailer, and the
checksum of that in its field. For a name whose length is outside 5..32: assumption log 23. -/
def rawBuffer (name trl : List Byte) : List Byte :=
  withChecksum ((assemble name).take (Params.hdrLen + name.length) ++ trl)

/-- `ENCODE` (R79): the token of a name, or none for InvalidName. R79 defines it for `5 <= n <= 32` only and
R72 gives other lengths no meaning. DESIGN CHOICE: it is total here, and for another length gives what the
same steps give with missing bytes read as 0 (assumption log 23). -/
def encodeName (f : QuotFn) (name : List Byte) : Option (List Byte) :=
  (trailer f (nameByte name 0) (nameByte name 1) (nameByte name 2) (nameByte name 3)
    (nameByte name 4)).map fun trl => format (obfuscate (rawBuffer name trl))

/-- The sequencer steps of a run (R80): 5 when the guard rejects the name, `15 + 3*LEN` otherwise.
For a name whose length is outside 5..32: assumption log 23. -/
def runSteps (name : List Byte) : Nat :=
  if guardFails name then 5 else 15 + 3 * (Params.ovh + name.length)

end Sys2Proof.Machine
end

