-- ==== Sys2Proof/Machine/Script.lean ====
section
/-! DEFINITION. The host's scripts as data (spec/30_encoding.md rules R62, R63): how operations are
written, and the pseudo-commands as moves of the host. -/

namespace Sys2Proof

/-- The mnemonic of an operation (rules R55, R57). -/
def Instr.mnemonic : Instr → String
  | .asmClr => "ASM.CLR"
  | .asmTag => "ASM.TAG"
  | .asmLic => "ASM.LIC"
  | .asmBody => "ASM.BODY"
  | .trlDen => "TRL.DEN"
  | .trlQ => "TRL.Q"
  | .trlT1 => "TRL.T1"
  | .trlT2 => "TRL.T2"
  | .trlT3 => "TRL.T3"
  | .trlT4 => "TRL.T4"
  | .trlT5 => "TRL.T5"
  | .chkInit => "CHK.INIT"
  | .chkStep => "CHK.STEP"
  | .chkWr => "CHK.WR"
  | .obfStep => "OBF.STEP"
  | .fmtOpen => "FMT.OPEN"
  | .fmtByte => "FMT.BYTE"
  | .fmtClose => "FMT.CLOSE"
  | .nop => "NOP"
  | .ldlen _ => "LDLEN"
  | .ldname _ _ => "LDNAME"
  | .start => "START"
  | .rdtok _ => "RDTOK"
  | .rdstat => "RDSTAT"
  | .reset => "RESET"

/-- Whether an operation is one of the three loop UOPs (rules R55, R74). -/
def Instr.isLoop : Instr → Bool
  | .chkStep | .obfStep | .fmtByte => true
  | .asmClr | .asmTag | .asmLic | .asmBody
  | .trlDen | .trlQ | .trlT1 | .trlT2 | .trlT3 | .trlT4 | .trlT5
  | .chkInit | .chkWr | .fmtOpen | .fmtClose
  | .nop | .ldlen _ | .ldname _ _ | .start | .rdtok _ | .rdstat | .reset => false

/-- The operands of a command as a script writes them, in decimal (R62). -/
def Instr.operandText : Instr → String
  | .ldlen len => " " ++ toString len
  | .ldname idx data => " " ++ toString idx ++ ", " ++ toString data.toNat
  | .rdtok tidx => " " ++ toString tidx
  | .asmClr | .asmTag | .asmLic | .asmBody
  | .trlDen | .trlQ | .trlT1 | .trlT2 | .trlT3 | .trlT4 | .trlT5
  | .chkInit | .chkStep | .chkWr | .obfStep | .fmtOpen | .fmtByte | .fmtClose
  | .nop | .start | .rdstat | .reset => ""

/-- A host command as a script line (R62): the mnemonic, then its operands. -/
def Instr.scriptLine (i : Instr) : String := i.mnemonic ++ i.operandText

/-- A sequencer step as a trace line (R62): `mnemonic`, or `mnemonic[i]` for a loop UOP run at `I = i`. -/
def Instr.traceLine (i : Instr) (pos : Nat) : String :=
  if i.isLoop then i.mnemonic ++ "[" ++ toString pos ++ "]" else i.mnemonic

end Sys2Proof

namespace Sys2Proof.Machine

/-- The host's move that issues a command: its encoding on the command port. A UOP is never written by a
host (R62). A command with an operand outside its field: assumption log 18. -/
def issue (i : Instr) : List Turn :=
  match encode i with
  | .command w => [.host w]
  | .uop _ => []

/-- `LDNAME a, b` for each byte of a list, from index `a` up; beyond index 31: assumption log 18. -/
def loadBytes : Nat → List Byte → List Turn
  | _, [] => []
  | a, b :: bs => issue (.ldname a b) ++ loadBytes (a + 1) bs

/-- `LOADNAME` (R63): `LDLEN n`, then `LDNAME a, ba` in order. DESIGN CHOICE: a list of
more than 32 bytes, for which R62 gives no such commands, is cut as `encode` cuts it (assumption log 18). -/
def loadName (name : List Byte) : List Turn := issue (.ldlen name.length) ++ loadBytes 0 name

/-- `RUN` (R63): the host issues nothing for `k` steps of the sequencer. How many it takes
is an argument (assumption log 25). -/
def runTurns (k : Nat) : List Turn := List.replicate k .sequencer

/-- `READTOKEN` (R63) for a visible token length `m`: `RDSTAT`, then `RDTOK a` for `a = 0 .. m-1`;
`m = 0` where the machine is not DONE. The length is an argument (assumption log 25). -/
def readToken (m : Nat) : List Turn :=
  issue .rdstat ++ (List.range m).flatMap fun a => issue (.rdtok a)

/-- `ENCODE x` (R63), for a run of `k` sequencer steps and a token of `m` characters. -/
def encodeScript (name : List Byte) (k m : Nat) : List Turn :=
  loadName name ++ issue .start ++ runTurns k ++ readToken m

end Sys2Proof.Machine
end

