-- ==== Sys2Proof/Safety.lean ====
section
/-! DEFINITION. The terms claims use: the state elements and what it means that one is unchanged; which
element each operation reads and writes (spec/10_state.md rule R27); the premises of a claim about one
run (spec/70_reset_and_hazards.md rule R154); and what holds of every state a run reaches. -/

namespace Sys2Proof.Machine

/-! ## Elements and frames -/

/-- The storage elements of spec/10_state.md rule R13, and the model's own two fields. -/
inductive Element where
  | name | nlen | buf | h | denom | q | i | upc | tok | tlen | response | turns
deriving DecidableEq, Repr

/-- An element holds the same in two states; of a store, every byte reads the same. -/
def Element.same : Element → State → State → Prop
  | .name, s, t => ∀ a, t.nameAt a = s.nameAt a
  | .nlen, s, t => t.nlen = s.nlen
  | .buf, s, t => ∀ a, t.bufAt a = s.bufAt a
  | .h, s, t => t.h = s.h
  | .denom, s, t => t.denom = s.denom
  | .q, s, t => t.q = s.q
  | .i, s, t => t.i = s.i
  | .upc, s, t => t.upc = s.upc
  | .tok, s, t => ∀ a, t.tokAt a = s.tokAt a
  | .tlen, s, t => t.tlen = s.tlen
  | .response, s, t => t.response = s.response
  | .turns, s, t => t.turns = s.turns

/-- Every element outside a list is unchanged: the FRAME of what the list names. -/
def KeepsAllBut (es : List Element) (s t : State) : Prop := ∀ e, e ∉ es → e.same s t

/-- Two states agree on the elements of a list. -/
def AgreeOn (es : List Element) (s t : State) : Prop := ∀ e ∈ es, e.same s t

end Sys2Proof.Machine

namespace Sys2Proof

open Machine (Element)

/-- Which elements an operation writes (R27; every UOP also writes `UPC` and `I`, every command answers). -/
def Instr.writes : Instr → List Element
  | .asmClr | .asmTag | .asmLic | .asmBody => [.buf, .upc, .i]
  | .trlDen => [.denom, .upc, .i]
  | .trlQ => [.q, .upc, .i]
  | .trlT1 | .trlT2 | .trlT3 | .trlT4 | .trlT5 => [.buf, .upc, .i]
  | .chkInit | .chkStep => [.h, .upc, .i]
  | .chkWr | .obfStep => [.buf, .upc, .i]
  | .fmtOpen | .fmtByte | .fmtClose => [.tok, .tlen, .upc, .i]
  | .nop => [.response]
  | .ldlen _ => [.nlen, .response]
  | .ldname _ _ => [.name, .response]
  | .start => [.tlen, .upc, .i, .response]
  | .rdtok _ | .rdstat => [.response]
  | .reset => [.name, .nlen, .buf, .h, .denom, .q, .i, .upc, .tok, .tlen, .response]

/-- Which elements an operation reads (R27; every UOP also reads `UPC`). -/
def Instr.reads : Instr → List Element
  | .asmClr | .asmTag | .asmLic => [.upc]
  | .asmBody => [.name, .nlen, .upc]
  | .trlDen => [.buf, .upc]
  | .trlQ => [.buf, .denom, .upc]
  | .trlT1 | .trlT3 | .trlT5 => [.nlen, .buf, .upc]
  | .trlT2 => [.nlen, .buf, .q, .upc]
  | .trlT4 => [.nlen, .upc]
  | .chkInit => [.upc]
  | .chkStep => [.nlen, .buf, .h, .i, .upc]
  | .chkWr => [.h, .upc]
  | .obfStep => [.nlen, .buf, .i, .upc]
  | .fmtOpen => [.upc]
  | .fmtByte => [.nlen, .buf, .i, .upc]
  | .fmtClose => [.nlen, .upc]
  | .nop | .reset => []
  | .ldlen _ | .ldname _ _ => [.upc]
  | .start => [.nlen, .upc]
  | .rdtok _ => [.tok, .tlen, .upc]
  | .rdstat => [.tlen, .upc]

end Sys2Proof

namespace Sys2Proof.Machine

/-! ## The premises of a claim about one run (R154) -/

/-- `Quiescent`: `STATUS.BUSY = 0`. -/
def Quiescent (s : State) : Prop := s.busy = false

/-- `LenOk`: `5 <= NLEN <= 32`. -/
def LenOk (s : State) : Prop := s.lenOk = true

/-- `NameIs(N)`: the loaded name is `N`. -/
def NameIs (s : State) (name : List Byte) : Prop := s.nameBytes = name

/-- The command words of START and RESET. -/
def startWord : PortWord := 0x6000
def resetWord : PortWord := 0xE000

/-- `NoReset`: no RESET command and no reset pin among the moves. -/
def NoReset (ts : List Turn) : Prop := Turn.host resetWord ∉ ts ∧ Turn.resetPin ∉ ts

/-- The sequencer alone moves: the host has nothing scheduled (`RUN`, spec/30_encoding.md rule R63). That the
sequencer then moves is the model's choice (assumption log 1). -/
def SequencerOnly (s : State) : Prop := s.turns = []

/-- `k` steps of the machine, stopping at the first stop. -/
def run (k : Nat) (s : State) : Out := Sys2Proof.core.run k s

/-! ## What holds of every state a run reaches -/

/-- `UPC` selects one of the three loop UOPs (R74). -/
def State.inLoop (s : State) : Prop := s.upc = 13 ∨ s.upc = 15 ∨ s.upc = 17

/-- The invariant of KEP: its registers stay in the ranges the spec gives them. -/
structure Inv (s : State) : Prop where
  /-- The stores are in canonical form, within their capacities (spec/20_memory.md R32). -/
  memCanonical : s.mem.wf = true
  /-- `UPC` is never 21..31 (spec/30_encoding.md R59). -/
  upcLegal : s.upc.toNat ≤ 20
  /-- A run has a legal name length (spec/10_state.md R22, spec/40_sequencer.md R72, R77). -/
  runLenOk : s.busy = true → s.lenOk = true
  /-- `I` is 0 outside the loops (spec/10_state.md R19). -/
  posZero : ¬ s.inLoop → s.i = 0
  /-- `I` is a position of the KeyBuffer inside a loop (spec/10_state.md R19). -/
  posInside : s.inLoop → s.pos < s.len
  /-- `TLEN` is 0 until FMT.OPEN has run (spec/10_state.md R23). -/
  tlenBefore : s.upc.toNat ≤ 16 → s.tlen = 0
  /-- `TLEN = 1 + 2*I` as FMT.BYTE proceeds (R23). -/
  tlenBytes : s.upc = 17 → s.tlen.toNat = 1 + 2 * s.pos
  /-- `TLEN = 2*LEN + 1` before FMT.CLOSE (spec/45_formatter.md R125). -/
  tlenClose : s.upc = 18 → s.tlen.toNat = 2 * s.len + 1
  /-- A finished run has `TLEN` even, between 42 and 96 (spec/10_state.md R16, spec/30_encoding.md R52). -/
  tlenDone : s.upc = 19 → 42 ≤ s.tlen.toNat ∧ s.tlen.toNat ≤ 96 ∧ s.tlen.toNat % 2 = 0
  /-- No token after InvalidName (spec/60_exceptions.md R132). -/
  tlenError : s.upc = 20 → s.tlen = 0
  /-- TRL.Q never meets a zero divisor (spec/42_trailer.md R91). -/
  divisorNonzero : s.upc = 6 → s.denom ≠ 0
  /-- `DENOM = 0` in ERROR (spec/10_state.md R20). -/
  divisorError : s.upc = 20 → s.denom = 0
  /-- `BUF[LEN..46]` stays 0 after ASM.CLR (spec/10_state.md R15, spec/41_assembler.md R84). -/
  tailZero : 2 ≤ s.upc.toNat → s.upc.toNat ≤ 18 → ∀ a, s.len ≤ a → a < 47 → s.bufAt a = 0

/-- The layout of `BUF` while a run lays it down, derives the trailer and hashes it (spec/20_memory.md
rule R33). -/
structure Layout (s : State) : Prop where
  /-- prefix0, from ASM.TAG on. -/
  tag : 3 ≤ s.upc.toNat → s.upc.toNat ≤ 14 → s.bufAt 0 = 0x70
  /-- The license word, from ASM.LIC on. -/
  license : 4 ≤ s.upc.toNat → s.upc.toNat ≤ 14 →
    s.bufAt 1 = 0xFF ∧ s.bufAt 2 = 0x39 ∧ s.bufAt 3 = 0x65 ∧ s.bufAt 4 = 0x03
  /-- The checksum field is zero while it is hashed (spec/43_checksum.md R105). -/
  checksumZero : 2 ≤ s.upc.toNat → s.upc.toNat ≤ 14 → ∀ a, 5 ≤ a → a ≤ 8 → s.bufAt a = 0
  /-- The body is the name, from ASM.BODY on (spec/10_state.md R25). -/
  body : 5 ≤ s.upc.toNat → s.upc.toNat ≤ 14 → ∀ a, a < s.n → s.bufAt (9 + a) = s.nameAt a
  /-- trailer[0] is never written (spec/42_trailer.md R99). -/
  trailerFirst : 2 ≤ s.upc.toNat → s.upc.toNat ≤ 14 → s.bufAt s.tr = 0
  /-- The trailer is unwritten until TRL.T1 (spec/60_exceptions.md R133). -/
  trailerUnwritten : 2 ≤ s.upc.toNat → s.upc.toNat ≤ 7 → ∀ j, j ≤ 5 → s.bufAt (s.tr + j) = 0

/-- The condition of the division guard on the loaded name (spec/60_exceptions.md rule R131), read from the
body bytes. -/
def GuardFails (s : State) : Prop := (s.b0.toNat + 256 - s.b3.toNat + 1) % 256 = 0

end Sys2Proof.Machine
end

