-- ==== Sys2Proof/Certificates/Slice0/Obligations.lean ====
section
/-! DEFINITION. The statements for the provers, from the numbered rules of spec/. A statement about a
micro-operation speaks of every state. In a state no run reaches (`NLEN` outside 5..32, `UPC` not the
operation's code, `I` not where its stage has it) that the operation runs by its rule's pseudocode is the
model's reading (assumption log 7 and 19). -/

open Sys2Proof Sys2Proof.Machine

/-! ## Encodings -/

/-- Words written out from spec/30_encoding.md rules R55 and R57 and the table of spec/95_test_vectors.md
section 2.9 decode to the operations they stand for, and reserved ones to none. -/
def Obligations.SpecWordsDecode : Prop :=
  decode (.uop 0b00001) = .ok .asmClr ∧ decode (.uop 0b00101) = .ok .trlDen ∧
  decode (.uop 0b01101) = .ok .chkStep ∧ decode (.uop 0b01111) = .ok .obfStep ∧
  decode (.uop 0b10010) = .ok .fmtClose ∧ decode (.uop 0b00000) = .error .idle ∧
  decode (.uop 0b10101) = .error .reservedCode ∧
  decode (.command 0x0000) = .ok .nop ∧ decode (.command 0x200E) = .ok (.ldlen 14) ∧
  decode (.command 0x203F) = .ok (.ldlen 63) ∧ decode (.command 0x5F35) = .ok (.ldname 31 0x35) ∧
  decode (.command 0x6000) = .ok .start ∧ decode (.command 0x807F) = .ok (.rdtok 127) ∧
  decode (.command 0xA000) = .ok .rdstat ∧ decode (.command 0xE000) = .ok .reset ∧
  decode (.command 0x2040) = .error .reservedBits ∧ decode (.command 0x2105) = .error .reservedBits ∧
  decode (.command 0xC123) = .error .reservedCommand

/-- Decoding the encoding of a well-formed operation gives it back, with every operand at every value its
field admits. -/
def Obligations.DecodeOfEncode : Prop :=
  ∀ i : Instr, i.wellFormed = true → decode (encode i) = .ok i

/-- Each code and each word has at most one meaning: what a decoded operation encodes to is the code it was
decoded from, and the operation is well-formed. -/
def Obligations.EncodeOfDecode : Prop :=
  ∀ (c : Code) (i : Instr), decode c = .ok i → encode i = c ∧ i.wellFormed = true

/-- The command map of spec/30_encoding.md rule R57: a word selects a row exactly when the decoder reads an
operation of that row from it, and no word selects two rows. -/
def Obligations.CommandRowsSelectWords : Prop :=
  (∀ w : PortWord, ∀ r ∈ commandRows,
    r.selectedBy w = true ↔ ∃ i, decodeCommand w = .ok i ∧ commandRowOf i = some r) ∧
  (∀ w : PortWord, ∀ r ∈ commandRows, ∀ r' ∈ commandRows,
    r.selectedBy w = true → r'.selectedBy w = true → r = r')

/-- spec/30_encoding.md rule R60: which words are reserved, and that a reserved word executes as NOP. -/
def Obligations.ReservedWordExecutesAsNop : Prop :=
  ∀ w : PortWord,
    ((∀ r ∈ commandRows, r.selectedBy w = false) ↔
      (w.toNat / 8192 = 6 ∨
       (w.toNat / 8192 = 0 ∨ w.toNat / 8192 = 3 ∨ w.toNat / 8192 = 5 ∨ w.toNat / 8192 = 7) ∧
         w.toNat % 8192 ≠ 0 ∨
       w.toNat / 8192 = 1 ∧ w.toNat % 8192 / 64 ≠ 0 ∨
       w.toNat / 8192 = 4 ∧ w.toNat % 8192 / 128 ≠ 0)) ∧
    ((∀ r ∈ commandRows, r.selectedBy w = false) →
      ∀ (s : State) (ts : List Turn), s.turns = .host w :: ts →
        ∃ t, step s = .next t ∧ t.response = 0 ∧ t.turns = ts ∧
          KeepsAllBut [.response, .turns] s t)

/-! ## The step -/

/-- A step at which the host presents a command word runs the operation the word decodes to, with that move
taken off the schedule. -/
def Obligations.StepRunsHostCommand : Prop :=
  ∀ (s : State) (w : PortWord) (ts : List Turn) (i : Instr),
    s.turns = .host w :: ts → decodeCommand w = .ok i → step s = exec i (s.setTurns ts)

/-- A sequencer's step runs the operation whose code is `UPC`, and `UPC` selects one exactly when it is 1..18:
in IDLE, DONE and ERROR and at the reserved codes it has none (spec/40_sequencer.md rules R67, R78,
spec/30_encoding.md rule R59). THE MODEL'S CHOICES, no rules of the spec: that the sequencer moves when no
move is scheduled (second and fifth clause; DESIGN CHOICE, assumption log 1), and that a sequencer's turn
without an operation is answered by a step that changes nothing but the schedule (fourth and fifth clause;
DESIGN CHOICE, assumption log 3). -/
def Obligations.StepRunsSequencerOperation : Prop :=
  (∀ (s : State) (ts : List Turn) (i : Instr),
    s.turns = .sequencer :: ts → decodeUop s.upc = .ok i → step s = exec i (s.setTurns ts)) ∧
  (∀ (s : State) (i : Instr), s.turns = [] → decodeUop s.upc = .ok i → step s = exec i s) ∧
  (∀ s : State, (∃ i, decodeUop s.upc = .ok i) ↔ 1 ≤ s.upc.toNat ∧ s.upc.toNat ≤ 18) ∧
  (∀ (s : State) (ts : List Turn), s.turns = .sequencer :: ts →
    ¬ (1 ≤ s.upc.toNat ∧ s.upc.toNat ≤ 18) → step s = .next (s.setTurns ts)) ∧
  (∀ s : State, s.turns = [] → ¬ (1 ≤ s.upc.toNat ∧ s.upc.toNat ≤ 18) → step s = .next s)

/-- spec/40_sequencer.md rule R74, KEP's only control transfer: how a step of the sequencer sets `UPC` and
`I`. -/
def Obligations.SequencerMovesUpcAndI : Prop :=
  ∀ (s t : State) (ts : List Turn),
    s.turns = .sequencer :: ts → 1 ≤ s.upc.toNat → s.upc.toNat ≤ 18 → step s = .next t →
      (s.upc = 5 ∧ GuardFails s → t.upc = 20 ∧ t.i = 0) ∧
      (¬ (s.upc = 5 ∧ GuardFails s) →
        (s.inLoop ∧ s.pos + 1 < s.len → t.upc = s.upc ∧ t.i.toNat = s.pos + 1) ∧
        (¬ (s.inLoop ∧ s.pos + 1 < s.len) → t.upc.toNat = s.upc.toNat + 1 ∧ t.i = 0))

/-! ## Reset -/

/-- spec/10_state.md rule R28: the value of every element after reset. -/
def Obligations.ResetValues : Prop :=
  State.reset.upc = 0 ∧ State.reset.nlen = 0 ∧
  (∀ a, State.reset.nameAt a = 0) ∧ (∀ a, State.reset.bufAt a = 0) ∧
  State.reset.h = 0 ∧ State.reset.denom = 0 ∧ State.reset.q = 0 ∧ State.reset.i = 0 ∧
  (∀ a, State.reset.tokAt a = 0) ∧ State.reset.tlen = 0 ∧
  State.reset.busy = false ∧ State.reset.isDone = false ∧ State.reset.isErr = false

/-- spec/40_sequencer.md rule R76: RESET, and the reset pin, give every element its reset value in any
state, and return 0x0000 (for the pin: spec/70_reset_and_hazards.md rule R153). That the pin's assertion is
one move of the schedule is the model's form (assumption log 12). -/
def Obligations.ResetCommandResetsEveryElement : Prop :=
  decode (.command 0xE000) = .ok .reset ∧
  (∀ s : State, ∃ t, exec .reset s = .next t ∧ t.response = 0 ∧ t.turns = s.turns ∧
    AgreeOn [.name, .nlen, .buf, .h, .denom, .q, .i, .upc, .tok, .tlen] State.reset t ∧
    t.status = 0) ∧
  (∀ (s : State) (ts : List Turn), s.turns = .resetPin :: ts →
    ∃ t, step s = .next t ∧ t.response = 0 ∧ t.turns = ts ∧
      AgreeOn [.name, .nlen, .buf, .h, .denom, .q, .i, .upc, .tok, .tlen] State.reset t ∧
      t.status = 0)

/-! ## The other host commands -/

/-- spec/40_sequencer.md rule R68. -/
def Obligations.NopChangesNothing : Prop :=
  decode (.command 0x0000) = .ok .nop ∧
  (∀ s : State, ∃ t, exec .nop s = .next t ∧ t.response = 0 ∧ KeepsAllBut [.response] s t) ∧
  (∀ (w : PortWord) (e : DecodeError), decodeCommand w = .error e →
    ∀ (s : State) (ts : List Turn), s.turns = .host w :: ts → step s = exec .nop (s.setTurns ts))

/-- spec/40_sequencer.md rule R69: LDLEN sets `NLEN` unless BUSY, for every length a word encodes. -/
def Obligations.LdlenSetsLengthUnlessBusy : Prop :=
  ∀ len : Nat, len < 64 →
    decode (.command (0x2000 ||| BitVec.ofNat 16 len)) = .ok (.ldlen len) ∧
    ∀ s : State, ∃ t, exec (.ldlen len) s = .next t ∧ t.response = 0 ∧
      (s.busy = false → t.nlen.toNat = len ∧ KeepsAllBut [.nlen, .response] s t) ∧
      (s.busy = true → KeepsAllBut [.response] s t)

/-- spec/40_sequencer.md rule R70: LDNAME writes one name byte unless BUSY, for every index and byte a word
encodes. -/
def Obligations.LdnameWritesByteUnlessBusy : Prop :=
  ∀ (idx : Nat) (data : Byte), idx < 32 →
    decode (.command (0x4000 ||| (BitVec.ofNat 16 idx <<< 8) ||| data.setWidth 16)) =
      .ok (.ldname idx data) ∧
    ∀ s : State, ∃ t, exec (.ldname idx data) s = .next t ∧ t.response = 0 ∧
      (s.busy = false → t.nameAt idx = data ∧ (∀ a, a ≠ idx → t.nameAt a = s.nameAt a) ∧
        KeepsAllBut [.name, .response] s t) ∧
      (s.busy = true → KeepsAllBut [.response] s t)

/-- spec/40_sequencer.md rule R71: an accepted START, with a legal length, begins a run; while BUSY it
changes nothing. -/
def Obligations.StartBeginsRun : Prop :=
  decode (.command 0x6000) = .ok .start ∧
  (∀ s : State, Quiescent s → LenOk s → ∃ t, exec .start s = .next t ∧ t.response = 0 ∧
    t.tlen = 0 ∧ t.i = 0 ∧ t.upc = 1 ∧ t.status = 0b001 ∧
    KeepsAllBut [.tlen, .i, .upc, .response] s t) ∧
  (∀ s : State, s.busy = true → ∃ t, exec .start s = .next t ∧ t.response = 0 ∧
    KeepsAllBut [.response] s t)

/-- spec/40_sequencer.md rule R72: a START, not BUSY, with `NLEN` outside 5..32 is refused. -/
def Obligations.StartOutsideLengthIsRefused : Prop :=
  ∀ s : State, Quiescent s → (s.nlen.toNat < 5 ∨ 32 < s.nlen.toNat) →
    exec .start s = .refused .startLengthOutOfRange

/-- spec/40_sequencer.md rule R73: RDTOK answers the character in DONE below `TLEN` and 0x0000 otherwise, for
every index a word encodes; it changes nothing. -/
def Obligations.RdtokAnswersCharacterInDone : Prop :=
  ∀ tidx : Nat, tidx < 128 →
    decode (.command (0x8000 ||| BitVec.ofNat 16 tidx)) = .ok (.rdtok tidx) ∧
    ∀ s : State, s.tlen.toNat ≤ 96 → ∃ t, exec (.rdtok tidx) s = .next t ∧
      (s.upc = 19 ∧ tidx < s.tlen.toNat → t.response.toNat = (s.tokAt tidx).toNat) ∧
      (¬ (s.upc = 19 ∧ tidx < s.tlen.toNat) → t.response = 0) ∧
      KeepsAllBut [.response] s t

/-- spec/40_sequencer.md rule R75: RDSTAT answers the visible length and `STATUS`; it changes nothing. -/
def Obligations.RdstatAnswersStatus : Prop :=
  decode (.command 0xA000) = .ok .rdstat ∧
  ∀ s : State, ∃ t, exec .rdstat s = .next t ∧
    t.response.toNat = 256 * (if s.upc = 19 then s.tlen.toNat else 0) +
      4 * (if s.upc = 20 then 1 else 0) + 2 * (if s.upc = 19 then 1 else 0) +
      (if 1 ≤ s.upc.toNat ∧ s.upc.toNat ≤ 18 then 1 else 0) ∧
    KeepsAllBut [.response] s t

/-- spec/40_sequencer.md rule R77: the host's commands during a run. -/
def Obligations.CommandsDuringRunChangeNothing : Prop :=
  (∀ (s : State) (w : PortWord) (ts : List Turn),
    s.busy = true → s.turns = .host w :: ts → w ≠ resetWord →
      ∃ t, step s = .next t ∧ t.turns = ts ∧ KeepsAllBut [.response, .turns] s t ∧
        t.response = if w = 0xA000 then 0x0001 else 0x0000) ∧
  (∀ (s : State) (ts : List Turn), s.busy = true → s.turns = .host resetWord :: ts →
    ∃ t, step s = .next t ∧ t.turns = ts ∧ t.response = 0 ∧
      AgreeOn [.name, .nlen, .buf, .h, .denom, .q, .i, .upc, .tok, .tlen] State.reset t) ∧
  (∀ s t : State, s.busy = true → s.nextTurn ≠ .host resetWord → s.nextTurn ≠ .resetPin →
    step s = .next t → t.nlen = s.nlen ∧ ∀ a, t.nameAt a = s.nameAt a)

/-- No host command reads `NAME`, `BUF`, `H`, `DENOM`, `Q` or `I`: two states that agree on `NLEN`, `TOK`,
`TLEN` and `UPC` give the host the same response to every command word, reserved ones included, or both stop
(spec/60_exceptions.md rule R142, spec/92_eei_decisions.md D20). -/
def Obligations.HostCannotSeeIntermediates : Prop :=
  ∀ (s s' : State) (w : PortWord) (ts ts' : List Turn),
    s.turns = .host w :: ts → s'.turns = .host w :: ts' →
    AgreeOn [.nlen, .tok, .tlen, .upc] s s' →
      ((∃ t, step s = .next t) ↔ (∃ t', step s' = .next t')) ∧
      (∀ t t', step s = .next t → step s' = .next t' → t.response = t'.response)

/-! ## Stage 1, the Layout Assembler -/

/-- spec/41_assembler.md rule R84. -/
def Obligations.AsmClrZeroesBuffer : Prop :=
  decode (.uop 1) = .ok .asmClr ∧
  ∀ s : State, ∃ t, exec .asmClr s = .next t ∧ (∀ a, a < 47 → t.bufAt a = 0) ∧
    t.upc = s.upc + 1 ∧ t.i = 0 ∧ KeepsAllBut [.buf, .upc, .i] s t

/-- spec/41_assembler.md rule R85. -/
def Obligations.AsmTagWritesPrefix : Prop :=
  decode (.uop 2) = .ok .asmTag ∧
  ∀ s : State, ∃ t, exec .asmTag s = .next t ∧ t.bufAt 0 = 0x70 ∧
    (∀ a, a ≠ 0 → t.bufAt a = s.bufAt a) ∧
    t.upc = s.upc + 1 ∧ t.i = 0 ∧ KeepsAllBut [.buf, .upc, .i] s t

/-- spec/41_assembler.md rule R86. -/
def Obligations.AsmLicWritesLicense : Prop :=
  decode (.uop 3) = .ok .asmLic ∧
  (0x03643050 &&& 0xFFFDFFFF ||| 0x000109AF : Word) = 0x036539FF ∧
  ∀ s : State, ∃ t, exec .asmLic s = .next t ∧
    t.bufAt 1 = 0xFF ∧ t.bufAt 2 = 0x39 ∧ t.bufAt 3 = 0x65 ∧ t.bufAt 4 = 0x03 ∧
    (∀ a, a < 1 ∨ 5 ≤ a → t.bufAt a = s.bufAt a) ∧
    t.upc = s.upc + 1 ∧ t.i = 0 ∧ KeepsAllBut [.buf, .upc, .i] s t

/-- spec/41_assembler.md rule R87, for every length the stores hold. -/
def Obligations.AsmBodyCopiesName : Prop :=
  decode (.uop 4) = .ok .asmBody ∧
  ∀ s : State, s.n ≤ 32 → ∃ t, exec .asmBody s = .next t ∧
    (∀ a, a < s.n → t.bufAt (9 + a) = s.nameAt a) ∧
    (∀ a, a < 9 ∨ 9 + s.n ≤ a → t.bufAt a = s.bufAt a) ∧
    t.upc = s.upc + 1 ∧ t.i = 0 ∧ KeepsAllBut [.buf, .upc, .i] s t

/-! ## Stage 2, the Trailer Deriver -/

/-- spec/42_trailer.md rule R90: the divisor, its guard, and where the operation goes. -/
def Obligations.TrlDenComputesDivisorAndGuards : Prop :=
  decode (.uop 5) = .ok .trlDen ∧
  ∀ s : State,
    ((s.b0.toNat + 256 - s.b3.toNat + 1) % 256 = 0 ↔ s.b3 = s.b0 + 1) ∧
    ∃ t, exec .trlDen s = .next t ∧
      t.denom.toNat = (s.b0.toNat + 256 - s.b3.toNat + 1) % 256 ∧
      ((s.b0.toNat + 256 - s.b3.toNat + 1) % 256 = 0 → t.upc = 20) ∧
      ((s.b0.toNat + 256 - s.b3.toNat + 1) % 256 ≠ 0 → t.upc = s.upc + 1) ∧
      t.i = 0 ∧ KeepsAllBut [.denom, .upc, .i] s t

/-- spec/42_trailer.md rule R91: `Q <- QFN(b0, b1, DENOM)`, for whatever function this instance's `QFN`
is. R91 takes `DENOM` as nonzero. THE MODEL'S CHOICE, no rule of the spec: that in a state with `DENOM = 0`,
which no run reaches, TRL.Q completes too, with the free value `Config.qfn` has there (DEDUCED, assumption
log 5). -/
def Obligations.TrlQAppliesQuotientFunction : Prop :=
  decode (.uop 6) = .ok .trlQ ∧
  ∀ s : State, ∃ t, exec .trlQ s = .next t ∧ t.q = Config.qfn s.b0 s.b1 s.denom ∧
    t.upc = s.upc + 1 ∧ t.i = 0 ∧ KeepsAllBut [.q, .upc, .i] s t

/-- The two instances of `QFN` that spec/42_trailer.md rule R92 names, in numbers, and what each gives for
the known name: only `QFN_REM` reproduces the known trailer[2]. -/
def Obligations.NamedQuotientFunctions : Prop :=
  (∀ b0 b1 d : Byte, d ≠ 0 →
    (qfnDoc b0 b1 d).toNat = b0.toNat * b1.toNat % 256 / d.toNat ∧
    (qfnRem b0 b1 d).toNat = b0.toNat * b1.toNat % 256 % d.toNat) ∧
  trailer2 (qfnDoc 0x41 0x6B 0xD0) 0x61 = 0xF0 ∧ trailer2 (qfnRem 0x41 0x6B 0xD0) 0x61 = 0xAB

/-- spec/42_trailer.md rule R93. -/
def Obligations.TrlT1WritesTrailer1 : Prop :=
  decode (.uop 7) = .ok .trlT1 ∧
  ∀ s : State, s.n ≤ 36 → ∃ t, exec .trlT1 s = .next t ∧
    (t.bufAt (9 + s.n + 1)).toNat =
      16 * (((s.b0.toNat ||| s.b1.toNat) ^^^ (((s.b2.toNat ||| s.b3.toNat) + s.b4.toNat) % 256)) % 16) +
      (s.b0.toNat ^^^ s.b1.toNat ^^^ s.b2.toNat ^^^ s.b3.toNat ^^^ s.b4.toNat) % 16 ∧
    (∀ a, a ≠ 9 + s.n + 1 → t.bufAt a = s.bufAt a) ∧
    t.upc = s.upc + 1 ∧ t.i = 0 ∧ KeepsAllBut [.buf, .upc, .i] s t

/-- spec/42_trailer.md rule R94. -/
def Obligations.TrlT2WritesTrailer2 : Prop :=
  decode (.uop 8) = .ok .trlT2 ∧
  ∀ s : State, s.n ≤ 35 → ∃ t, exec .trlT2 s = .next t ∧
    (t.bufAt (9 + s.n + 2)).toNat =
      16 * ((s.q.toNat + 256 - s.b4.toNat) % 16) + s.q.toNat * s.b4.toNat % 16 ∧
    (∀ a, a ≠ 9 + s.n + 2 → t.bufAt a = s.bufAt a) ∧
    t.upc = s.upc + 1 ∧ t.i = 0 ∧ KeepsAllBut [.buf, .upc, .i] s t

/-- spec/42_trailer.md rule R95: the products first, the exclusive-ors second. -/
def Obligations.TrlT3WritesTrailer3 : Prop :=
  decode (.uop 9) = .ok .trlT3 ∧
  ∀ s : State, s.n ≤ 34 → ∃ t, exec .trlT3 s = .next t ∧
    (t.bufAt (9 + s.n + 3)).toNat =
      16 * (((s.b2.toNat + s.b3.toNat) * (s.b0.toNat + 256 - s.b1.toNat) % 256 ^^^
        (255 - s.b4.toNat)) % 16) +
      ((s.b2.toNat + 256 - s.b3.toNat) * (s.b0.toNat + s.b1.toNat) % 256 ^^^ s.b4.toNat) % 16 ∧
    (∀ a, a ≠ 9 + s.n + 3 → t.bufAt a = s.bufAt a) ∧
    t.upc = s.upc + 1 ∧ t.i = 0 ∧ KeepsAllBut [.buf, .upc, .i] s t

/-- spec/42_trailer.md rule R96. -/
def Obligations.TrlT4WritesConstant : Prop :=
  decode (.uop 10) = .ok .trlT4 ∧
  ∀ s : State, s.n ≤ 33 → ∃ t, exec .trlT4 s = .next t ∧
    (t.bufAt (9 + s.n + 4)).toNat = 114 ∧
    (∀ a, a ≠ 9 + s.n + 4 → t.bufAt a = s.bufAt a) ∧
    t.upc = s.upc + 1 ∧ t.i = 0 ∧ KeepsAllBut [.buf, .upc, .i] s t

/-- spec/42_trailer.md rule R98. -/
def Obligations.TrlT5WritesTrailer5 : Prop :=
  decode (.uop 11) = .ok .trlT5 ∧
  ∀ s : State, s.n ≤ 32 → ∃ t, exec .trlT5 s = .next t ∧
    (t.bufAt (9 + s.n + 5)).toNat =
      16 * 9 + (s.b0.toNat + s.b1.toNat + 768 - s.b2.toNat - s.b3.toNat - s.b4.toNat) % 16 ∧
    (∀ a, a ≠ 9 + s.n + 5 → t.bufAt a = s.bufAt a) ∧
    t.upc = s.upc + 1 ∧ t.i = 0 ∧ KeepsAllBut [.buf, .upc, .i] s t

/-- spec/42_trailer.md rule R101: trailer[1], trailer[3] and trailer[5] depend on the low nibbles of `b0..b4`
only, trailer[2] on those of `Q` and `b4` only. -/
def Obligations.TrailerDependsOnLowNibbles : Prop :=
  (∀ b0 b1 b2 b3 b4 c0 c1 c2 c3 c4 : Byte,
    loNibble b0 = loNibble c0 → loNibble b1 = loNibble c1 → loNibble b2 = loNibble c2 →
    loNibble b3 = loNibble c3 → loNibble b4 = loNibble c4 →
      trailer1 b0 b1 b2 b3 b4 = trailer1 c0 c1 c2 c3 c4 ∧
      trailer3 b0 b1 b2 b3 b4 = trailer3 c0 c1 c2 c3 c4 ∧
      trailer5 b0 b1 b2 b3 b4 = trailer5 c0 c1 c2 c3 c4) ∧
  (∀ q q' b4 c4 : Byte, loNibble q = loNibble q' → loNibble b4 = loNibble c4 →
    trailer2 q b4 = trailer2 q' c4)

/-! ## Stage 3, the Checksum Computer -/

/-- spec/43_checksum.md rule R106. -/
def Obligations.ChkInitClearsHash : Prop :=
  decode (.uop 12) = .ok .chkInit ∧
  ∀ s : State, ∃ t, exec .chkInit s = .next t ∧ t.h = 0 ∧
    t.upc = s.upc + 1 ∧ t.i = 0 ∧ KeepsAllBut [.h, .upc, .i] s t

/-- spec/43_checksum.md rule R108 in integers: the shift by 26 is the floor of the signed value over
2^26. -/
def Obligations.ChkStepFoldsByte : Prop :=
  decode (.uop 13) = .ok .chkStep ∧
  ∀ s : State, s.pos < 47 → ∃ t, exec .chkStep s = .next t ∧
    (∀ a : Nat, a = ((s.bufAt s.pos).toNat * 0x11121 + s.h.toNat * 8) % 2 ^ 32 →
      ∀ sa : Int, sa = (if a < 2 ^ 31 then (a : Int) else (a : Int) - 2 ^ 32) →
        (t.h.toNat : Int) = ((a : Int) + sa / 2 ^ 26) % 2 ^ 32) ∧
    (s.pos + 1 < s.len → t.upc = s.upc ∧ t.i.toNat = s.pos + 1) ∧
    (s.len ≤ s.pos + 1 → t.upc = s.upc + 1 ∧ t.i = 0) ∧
    KeepsAllBut [.h, .upc, .i] s t

/-- spec/43_checksum.md rule R109. -/
def Obligations.ChkWrStoresHash : Prop :=
  decode (.uop 14) = .ok .chkWr ∧
  ∀ s : State, ∃ t, exec .chkWr s = .next t ∧
    (∀ k, k < 4 → (t.bufAt (5 + k)).toNat = s.h.toNat / 256 ^ k % 256) ∧
    (∀ a, a < 5 ∨ 9 ≤ a → t.bufAt a = s.bufAt a) ∧
    t.upc = s.upc + 1 ∧ t.i = 0 ∧ KeepsAllBut [.buf, .upc, .i] s t

/-! ## Stage 4, the Obfuscation Encoder -/

/-- spec/44_obfuscation.md rule R117, bit by bit, with the four closed forms rule R114 gives `MASK`. -/
def Obligations.ObfStepMasksAndReverses : Prop :=
  decode (.uop 15) = .ok .obfStep ∧
  ∀ s : State, s.pos < 47 → ∃ t, exec .obfStep s = .next t ∧
    (∀ k, k < 8 → (t.bufAt s.pos).getLsbD k =
      (s.bufAt s.pos ^^^ BitVec.ofNat 8
        ((if s.pos % 32 = 0 then 253 else if s.pos % 32 = 1 then 251
          else if s.pos % 32 = 2 then 239 else 254) - s.pos)).getLsbD (7 - k)) ∧
    (∀ a, a ≠ s.pos → t.bufAt a = s.bufAt a) ∧
    (s.pos + 1 < s.len → t.upc = s.upc ∧ t.i.toNat = s.pos + 1) ∧
    (s.len ≤ s.pos + 1 → t.upc = s.upc + 1 ∧ t.i = 0) ∧
    KeepsAllBut [.buf, .upc, .i] s t

/-- spec/44_obfuscation.md rule R115: the formula gives the spec's table. -/
def Obligations.MaskTable : Prop :=
  (List.range 47).map mask =
    [0xFD, 0xFA, 0xED, 0xFB, 0xFA, 0xF9, 0xF8, 0xF7, 0xF6, 0xF5, 0xF4, 0xF3, 0xF2, 0xF1, 0xF0, 0xEF] ++
    [0xEE, 0xED, 0xEC, 0xEB, 0xEA, 0xE9, 0xE8, 0xE7, 0xE6, 0xE5, 0xE4, 0xE3, 0xE2, 0xE1, 0xE0, 0xDF] ++
    [0xDD, 0xDA, 0xCD, 0xDB, 0xDA, 0xD9, 0xD8, 0xD7, 0xD6, 0xD5, 0xD4, 0xD3, 0xD2, 0xD1, 0xD0]

/-- spec/44_obfuscation.md rules R118 and R119: the pass at a position is undone by `DEOBF`, both ways, and
is a bijection of the bytes; `REV8` undoes itself. THE MODEL'S CHOICE, no rule of the spec: what `OBF` and
`DEOBF` are at positions from 47 up, which no buffer has (R114; DESIGN CHOICE, assumption log 24). -/
def Obligations.ObfuscationIsReversible : Prop :=
  (∀ (i : Nat) (v : Byte), deobf i (obf i v) = v) ∧ (∀ (i : Nat) (y : Byte), obf i (deobf i y) = y) ∧
  (∀ i : Nat, Function.Bijective (obf i)) ∧ (∀ v : Byte, rev8 (rev8 v) = v)

/-! ## Stage 5, the Hex Formatter -/

/-- spec/45_formatter.md rule R123. -/
def Obligations.FmtOpenWritesBracket : Prop :=
  decode (.uop 16) = .ok .fmtOpen ∧
  ∀ s : State, ∃ t, exec .fmtOpen s = .next t ∧ t.tokAt 0 = 0x3C ∧
    (∀ a, a ≠ 0 → t.tokAt a = s.tokAt a) ∧ t.tlen = 1 ∧
    t.upc = s.upc + 1 ∧ t.i = 0 ∧ KeepsAllBut [.tok, .tlen, .upc, .i] s t

/-- spec/45_formatter.md rule R124, with the codes of the table of rule R122. -/
def Obligations.FmtByteWritesTwoDigits : Prop :=
  decode (.uop 17) = .ok .fmtByte ∧
  ∀ s : State, s.pos < 47 → ∃ t, exec .fmtByte s = .next t ∧
    (∀ codes : List Nat, codes = [0x30, 0x31, 0x32, 0x33, 0x34, 0x35, 0x36, 0x37, 0x38, 0x39,
        0x61, 0x62, 0x63, 0x64, 0x65, 0x66] →
      (t.tokAt (1 + 2 * s.pos)).toNat = codes.getD ((s.bufAt s.pos).toNat / 16) 0 ∧
      (t.tokAt (2 + 2 * s.pos)).toNat = codes.getD ((s.bufAt s.pos).toNat % 16) 0) ∧
    (∀ a, a ≠ 1 + 2 * s.pos → a ≠ 2 + 2 * s.pos → t.tokAt a = s.tokAt a) ∧
    t.tlen.toNat = 3 + 2 * s.pos ∧
    (s.pos + 1 < s.len → t.upc = s.upc ∧ t.i.toNat = s.pos + 1) ∧
    (s.len ≤ s.pos + 1 → t.upc = s.upc + 1 ∧ t.i = 0) ∧
    KeepsAllBut [.tok, .tlen, .upc, .i] s t

/-- spec/45_formatter.md rule R125. -/
def Obligations.FmtCloseEndsRun : Prop :=
  decode (.uop 18) = .ok .fmtClose ∧
  ∀ s : State, s.n ≤ 32 → ∃ t, exec .fmtClose s = .next t ∧
    t.tokAt (2 * s.len + 1) = 0x3E ∧ (∀ a, a ≠ 2 * s.len + 1 → t.tokAt a = s.tokAt a) ∧
    t.tlen.toNat = 2 * s.len + 2 ∧ t.upc = s.upc + 1 ∧ t.i = 0 ∧
    (s.upc = 18 → t.upc = 19 ∧ t.status = 0b010) ∧
    KeepsAllBut [.tok, .tlen, .upc, .i] s t

/-! ## The exception, and the stops -/

/-- spec/60_exceptions.md rule R131: what taking InvalidName does, when it is taken, and that nothing else
raises it. -/
def Obligations.InvalidNameOnlyFromTrlDen : Prop :=
  (∀ s : State, GuardFails s → ∃ t, exec .trlDen s = .next t ∧
    t.denom = 0 ∧ t.upc = 20 ∧ t.i = 0 ∧ KeepsAllBut [.denom, .upc, .i] s t) ∧
  (∀ s t : State, s.upc ≠ 20 → step s = .next t → t.upc = 20 →
    s.nextTurn = .sequencer ∧ s.upc = 5 ∧ GuardFails s)

/-- The model's own stops (assumption log 7): an operation that would reach an index outside a store stops
there, by name. -/
def Obligations.IndexOutsideStoreFaults : Prop :=
  (∀ s : State, 32 < s.n → exec .asmBody s = .fault (.nameIndexOutside (s.n - 1))) ∧
  (∀ s : State, 37 ≤ s.n → exec .trlT1 s = .fault (.bufIndexOutside (s.tr + 1))) ∧
  (∀ s : State, 36 ≤ s.n → exec .trlT2 s = .fault (.bufIndexOutside (s.tr + 2))) ∧
  (∀ s : State, 35 ≤ s.n → exec .trlT3 s = .fault (.bufIndexOutside (s.tr + 3))) ∧
  (∀ s : State, 34 ≤ s.n → exec .trlT4 s = .fault (.bufIndexOutside (s.tr + 4))) ∧
  (∀ s : State, 33 ≤ s.n → exec .trlT5 s = .fault (.bufIndexOutside (s.tr + 5))) ∧
  (∀ s : State, 47 ≤ s.pos → ∀ i : Instr, i = .chkStep ∨ i = .obfStep ∨ i = .fmtByte →
    exec i s = .fault (.bufIndexOutside s.pos)) ∧
  (∀ s : State, 33 ≤ s.n → exec .fmtClose s = .fault (.tokIndexOutside (2 * s.len + 1))) ∧
  (∀ (s : State) (tidx : Nat), s.upc = 19 → 96 ≤ tidx → tidx < s.tlen.toNat →
    exec (.rdtok tidx) s = .fault (.tokIndexOutside tidx))

/-! ## Every operation -/

/-- The access table of spec/10_state.md rule R27, its writes: an operation that answers a next state leaves
every element outside its row unchanged. -/
def Obligations.OperationsWriteOnlyTheirElements : Prop :=
  ∀ (i : Instr) (s t : State), exec i s = .next t → KeepsAllBut i.writes s t

/-- The access table of spec/10_state.md rule R27, its reads: from two states that agree on what the row says
the operation reads, every register of its row of writes ends the same, and every byte of a store either
ends the same or is unchanged in both. -/
def Obligations.OperationsReadOnlyTheirElements : Prop :=
  ∀ (i : Instr) (s s' t t' : State), AgreeOn i.reads s s' → exec i s = .next t → exec i s' = .next t' →
    (∀ e ∈ i.writes, e ∉ [Element.name, .buf, .tok] →
      e.same t t' ∨ (e.same s t ∧ e.same s' t')) ∧
    (∀ a, t.nameAt a = t'.nameAt a ∨ (t.nameAt a = s.nameAt a ∧ t'.nameAt a = s'.nameAt a)) ∧
    (∀ a, t.bufAt a = t'.bufAt a ∨ (t.bufAt a = s.bufAt a ∧ t'.bufAt a = s'.bufAt a)) ∧
    (∀ a, t.tokAt a = t'.tokAt a ∨ (t.tokAt a = s.tokAt a ∧ t'.tokAt a = s'.tokAt a))

/-! ## Invariants -/

/-- The invariants hold at reset. -/
def Obligations.ResetMeetsInvariants : Prop := Inv State.reset ∧ Layout State.reset

/-- Every step, of either agent or of the reset pin, keeps the invariant. -/
def Obligations.StepKeepsInvariant : Prop :=
  ∀ s t : State, Inv s → step s = .next t → Inv t

/-- Every step keeps the layout of the buffer (spec/20_memory.md rule R33): prefix, license, zero checksum
field, body and trailer[0] stand where the map says while the buffer is laid down, derived and hashed. -/
def Obligations.StepKeepsLayout : Prop :=
  ∀ s t : State, Inv s → Layout s → step s = .next t → Layout t

/-- No index outside a store is ever used, and no step stops, but for a START whose length the spec gives no
meaning (spec/20_memory.md rule R40, spec/60_exceptions.md rule R129). THE MODEL'S CHOICES, no rules of the
spec: that the sequencer moves when nothing is scheduled (DESIGN CHOICE, assumption log 1), and that its turn
at `UPC` 0, 19 or 20, where rule R78 of spec/40_sequencer.md gives it no step, is answered (DESIGN CHOICE,
assumption log 3). -/
def Obligations.StepStopsOnlyAtRefusedStart : Prop :=
  ∀ s : State, Inv s → (∃ t, step s = .next t) ∨
    (step s = .refused .startLengthOutOfRange ∧ s.nextTurn = .host startWord ∧ Quiescent s ∧ ¬ LenOk s)

/-! ## Stages and runs, the sequencer alone

That the sequencer moves when the schedule is empty is the model's form of "the sequencer alone moves"
(assumption log 1). -/

/-- spec/41_assembler.md rule R88: the four UOPs of the Layout Assembler leave `ASSEMBLE(name)` in the
KeyBuffer and zeros above it. -/
def Obligations.AssemblerStageBuildsBuffer : Prop :=
  ∀ s : State, SequencerOnly s → s.upc = 1 → LenOk s →
    ∃ t, run 4 s = .next t ∧ t.upc = 5 ∧ t.i = 0 ∧
      t.keyBuffer = assemble s.nameBytes ∧ (∀ a, s.len ≤ a → a < 47 → t.bufAt a = 0) ∧
      KeepsAllBut [.buf, .upc, .i] s t

/-- spec/42_trailer.md rule R100: the Trailer Deriver, for this instance's `QFN`. -/
def Obligations.TrailerStageDerivesTrailer : Prop :=
  ∀ s : State, SequencerOnly s → s.upc = 5 → LenOk s →
    (trailer Config.qfn s.b0 s.b1 s.b2 s.b3 s.b4 = none →
      ∃ t, run 1 s = .next t ∧ t.upc = 20 ∧ t.denom = 0 ∧ KeepsAllBut [.denom, .upc, .i] s t) ∧
    (∀ trl, trailer Config.qfn s.b0 s.b1 s.b2 s.b3 s.b4 = some trl →
      ∃ t, run 7 s = .next t ∧ t.upc = 12 ∧ t.i = 0 ∧
        (∀ j, 1 ≤ j → j ≤ 5 → t.bufAt (s.tr + j) = trl.getD j 0) ∧
        (∀ a, a ≤ s.tr ∨ s.tr + 6 ≤ a → t.bufAt a = s.bufAt a) ∧
        KeepsAllBut [.buf, .denom, .q, .upc, .i] s t)

/-- spec/43_checksum.md rule R110: the Checksum Computer hashes the whole KeyBuffer as it stood and stores
the hash, little-endian, in its field. -/
def Obligations.ChecksumStageHashesBuffer : Prop :=
  ∀ s : State, SequencerOnly s → s.upc = 12 → LenOk s →
    ∃ t, run (2 + s.len) s = .next t ∧ t.upc = 15 ∧ t.i = 0 ∧ t.h = checksum s.keyBuffer ∧
      (∀ k, k < 4 → t.bufAt (5 + k) = (le32 (checksum s.keyBuffer)).getD k 0) ∧
      (∀ a, a < 5 ∨ 9 ≤ a → t.bufAt a = s.bufAt a) ∧
      KeepsAllBut [.buf, .h, .upc, .i] s t

/-- The Obfuscation Encoder transforms every byte of the KeyBuffer in place and no other
(spec/44_obfuscation.md rules R113, R117). -/
def Obligations.ObfuscationStageTransformsBuffer : Prop :=
  ∀ s : State, SequencerOnly s → s.upc = 15 → s.i = 0 → LenOk s →
    ∃ t, run s.len s = .next t ∧ t.upc = 16 ∧ t.i = 0 ∧
      (∀ a, a < s.len → t.bufAt a = obf a (s.bufAt a)) ∧
      (∀ a, s.len ≤ a → t.bufAt a = s.bufAt a) ∧ KeepsAllBut [.buf, .upc, .i] s t

/-- spec/45_formatter.md rule R126: the Hex Formatter leaves `FORMAT` of the KeyBuffer in `TOK`; `FORMAT` is
injective. -/
def Obligations.FormatterStageRendersToken : Prop :=
  (∀ s : State, SequencerOnly s → s.upc = 16 → LenOk s →
    ∃ t, run (2 + s.len) s = .next t ∧ t.upc = 19 ∧ t.i = 0 ∧ t.token = format s.keyBuffer ∧
      t.tlen.toNat = 32 + 2 * s.n ∧ (∀ a, t.tlen.toNat ≤ a → t.tokAt a = s.tokAt a) ∧
      KeepsAllBut [.tok, .tlen, .upc, .i] s t) ∧
  Function.Injective format

/-- spec/60_exceptions.md rule R132: the state when InvalidName has been taken, five sequencer steps after an
accepted START. -/
def Obligations.StateAtTrapEntry : Prop :=
  ∀ s : State, s.turns = [.host startWord] → Quiescent s → LenOk s → guardFails s.nameBytes = true →
    ∃ t, run 6 s = .next t ∧ t.upc = 20 ∧ t.keyBuffer = assemble s.nameBytes ∧
      (∀ a, s.len ≤ a → a < 47 → t.bufAt a = 0) ∧ t.denom = 0 ∧ t.tlen = 0 ∧ t.i = 0 ∧
      KeepsAllBut [.buf, .denom, .tlen, .i, .upc, .response, .turns] s t

/-- THE RUN THEOREM, spec/40_sequencer.md rule R80. From a quiescent state with a legal length, after an
accepted START, with any host commands but RESET interleaved in any way, exactly `runSteps` sequencer steps
bring the run to its end, and not before; then it is ENCODE of the loaded name (for this instance's `QFN`):
InvalidName, or DONE with the token. -/
def Obligations.RunComputesEncode : Prop :=
  ∀ (s : State) (ts : List Turn),
    Quiescent s → LenOk s → NoReset ts → s.turns = .host startWord :: ts →
    ts.getLast? = some .sequencer → ts.count .sequencer = runSteps s.nameBytes →
      (∀ k, k < ts.length → ∃ u, run (k + 1) s = .next u ∧ u.busy = true) ∧
      ∃ t, run (ts.length + 1) s = .next t ∧ t.turns = [] ∧ t.busy = false ∧
        (∀ a, t.nameAt a = s.nameAt a) ∧ t.nlen = s.nlen ∧
        (encodeName Config.qfn s.nameBytes = none →
          t.upc = 20 ∧ t.tlen = 0 ∧ runSteps s.nameBytes = 5) ∧
        (∀ tok, encodeName Config.qfn s.nameBytes = some tok →
          t.upc = 19 ∧ t.tlen.toNat = 2 * s.len + 2 ∧ t.token = tok ∧
          runSteps s.nameBytes = 15 + 3 * s.len)

/-- spec/10_state.md rule R29: the outcome of a run depends on `NLEN` and `NAME[0..NLEN-1]` alone, whatever
the two states hold otherwise. -/
def Obligations.RunDependsOnNameAlone : Prop :=
  ∀ s s' : State, s.turns = [.host startWord] → s'.turns = [.host startWord] →
    Quiescent s → Quiescent s' → LenOk s → s'.nlen = s.nlen →
    (∀ a, a < s.n → s'.nameAt a = s.nameAt a) →
      ∃ t t', run (1 + runSteps s.nameBytes) s = .next t ∧
        run (1 + runSteps s.nameBytes) s' = .next t' ∧
        (t.upc = 19 ∨ t.upc = 20) ∧ t'.upc = t.upc ∧ t'.tlen = t.tlen ∧ t'.token = t.token

/-- The testable properties of the source as properties of ENCODE, for every instance of `QFN`
(spec/40_sequencer.md rule R82 (b) to (g)): length, guard, format, boundary, sensitivity; and the known
vector, which `QFN_REM` reproduces. -/
def Obligations.EncodeTestableProperties : Prop :=
  (∀ (f : QuotFn) (name : List Byte), 5 ≤ name.length → name.length ≤ 32 →
    (encodeName f name = none ↔ ((name.getD 0 0).toNat + 256 - (name.getD 3 0).toNat + 1) % 256 = 0) ∧
    (∀ tok, encodeName f name = some tok →
      tok.length = 2 * (15 + name.length) + 2 ∧ tok.head? = some 0x3C ∧ tok.getLast? = some 0x3E ∧
      (∀ k, 1 ≤ k → k + 1 < tok.length →
        0x30 ≤ (tok.getD k 0).toNat ∧ (tok.getD k 0).toNat ≤ 0x39 ∨
        0x61 ≤ (tok.getD k 0).toNat ∧ (tok.getD k 0).toNat ≤ 0x66)) ∧
    (∀ name' : List Byte, name'.length = name.length → name' ≠ name →
      ∀ tok tok', encodeName f name = some tok → encodeName f name' = some tok' → tok ≠ tok')) ∧
  (encodeName qfnRem
      [0x41, 0x6b, 0x69, 0x72, 0x61, 0x20, 0x4b, 0x75, 0x72, 0x6f, 0x73, 0x61, 0x77, 0x61]).map
      (fun tok => tok.map BitVec.toNat) =
    some ("<b1a02b799fd78161792df95901090b25d9f9c119d17991e7697284894e>".toList.map Char.toNat)
end

