-- ==== Sys2Proof/Laws/State.lean ====
section
/-! SUPPORT. One lemma per field per update of State, and the views (`nameAt`, `n`, `len`, `busy`, ...)
of an updated state, so that no later proof unfolds a record update. -/

namespace Sys2Proof.Machine

section setName
variable (s : State) (v : Store)
@[simp] theorem State.setName_name : (s.setName v).mem.name = v := rfl
@[simp] theorem State.setName_buf : (s.setName v).mem.buf = s.mem.buf := rfl
@[simp] theorem State.setName_tok : (s.setName v).mem.tok = s.mem.tok := rfl
@[simp] theorem State.setName_nlen : (s.setName v).nlen = s.nlen := rfl
@[simp] theorem State.setName_h : (s.setName v).h = s.h := rfl
@[simp] theorem State.setName_denom : (s.setName v).denom = s.denom := rfl
@[simp] theorem State.setName_q : (s.setName v).q = s.q := rfl
@[simp] theorem State.setName_i : (s.setName v).i = s.i := rfl
@[simp] theorem State.setName_upc : (s.setName v).upc = s.upc := rfl
@[simp] theorem State.setName_tlen : (s.setName v).tlen = s.tlen := rfl
@[simp] theorem State.setName_response : (s.setName v).response = s.response := rfl
@[simp] theorem State.setName_turns : (s.setName v).turns = s.turns := rfl
@[simp] theorem State.setName_nameAt (a : Nat) : (s.setName v).nameAt a = v.read a := rfl
@[simp] theorem State.setName_bufAt (a : Nat) : (s.setName v).bufAt a = s.bufAt a := rfl
@[simp] theorem State.setName_tokAt (a : Nat) : (s.setName v).tokAt a = s.tokAt a := rfl
@[simp] theorem State.setName_n : (s.setName v).n = s.n := rfl
@[simp] theorem State.setName_len : (s.setName v).len = s.len := rfl
@[simp] theorem State.setName_tr : (s.setName v).tr = s.tr := rfl
@[simp] theorem State.setName_lenOk : (s.setName v).lenOk = s.lenOk := rfl
@[simp] theorem State.setName_pos : (s.setName v).pos = s.pos := rfl
@[simp] theorem State.setName_busy : (s.setName v).busy = s.busy := rfl
@[simp] theorem State.setName_isDone : (s.setName v).isDone = s.isDone := rfl
@[simp] theorem State.setName_isErr : (s.setName v).isErr = s.isErr := rfl
@[simp] theorem State.setName_status : (s.setName v).status = s.status := rfl
@[simp] theorem State.setName_statusWord : (s.setName v).statusWord = s.statusWord := rfl
@[simp] theorem State.setName_b0 : (s.setName v).b0 = s.b0 := rfl
@[simp] theorem State.setName_b1 : (s.setName v).b1 = s.b1 := rfl
@[simp] theorem State.setName_b2 : (s.setName v).b2 = s.b2 := rfl
@[simp] theorem State.setName_b3 : (s.setName v).b3 = s.b3 := rfl
@[simp] theorem State.setName_b4 : (s.setName v).b4 = s.b4 := rfl
@[simp] theorem State.setName_keyBuffer : (s.setName v).keyBuffer = s.keyBuffer := rfl
@[simp] theorem State.setName_token : (s.setName v).token = s.token := rfl
end setName

section setBuf
variable (s : State) (v : Store)
@[simp] theorem State.setBuf_name : (s.setBuf v).mem.name = s.mem.name := rfl
@[simp] theorem State.setBuf_buf : (s.setBuf v).mem.buf = v := rfl
@[simp] theorem State.setBuf_tok : (s.setBuf v).mem.tok = s.mem.tok := rfl
@[simp] theorem State.setBuf_nlen : (s.setBuf v).nlen = s.nlen := rfl
@[simp] theorem State.setBuf_h : (s.setBuf v).h = s.h := rfl
@[simp] theorem State.setBuf_denom : (s.setBuf v).denom = s.denom := rfl
@[simp] theorem State.setBuf_q : (s.setBuf v).q = s.q := rfl
@[simp] theorem State.setBuf_i : (s.setBuf v).i = s.i := rfl
@[simp] theorem State.setBuf_upc : (s.setBuf v).upc = s.upc := rfl
@[simp] theorem State.setBuf_tlen : (s.setBuf v).tlen = s.tlen := rfl
@[simp] theorem State.setBuf_response : (s.setBuf v).response = s.response := rfl
@[simp] theorem State.setBuf_turns : (s.setBuf v).turns = s.turns := rfl
@[simp] theorem State.setBuf_nameAt (a : Nat) : (s.setBuf v).nameAt a = s.nameAt a := rfl
@[simp] theorem State.setBuf_bufAt (a : Nat) : (s.setBuf v).bufAt a = v.read a := rfl
@[simp] theorem State.setBuf_tokAt (a : Nat) : (s.setBuf v).tokAt a = s.tokAt a := rfl
@[simp] theorem State.setBuf_n : (s.setBuf v).n = s.n := rfl
@[simp] theorem State.setBuf_len : (s.setBuf v).len = s.len := rfl
@[simp] theorem State.setBuf_tr : (s.setBuf v).tr = s.tr := rfl
@[simp] theorem State.setBuf_lenOk : (s.setBuf v).lenOk = s.lenOk := rfl
@[simp] theorem State.setBuf_pos : (s.setBuf v).pos = s.pos := rfl
@[simp] theorem State.setBuf_busy : (s.setBuf v).busy = s.busy := rfl
@[simp] theorem State.setBuf_isDone : (s.setBuf v).isDone = s.isDone := rfl
@[simp] theorem State.setBuf_isErr : (s.setBuf v).isErr = s.isErr := rfl
@[simp] theorem State.setBuf_status : (s.setBuf v).status = s.status := rfl
@[simp] theorem State.setBuf_statusWord : (s.setBuf v).statusWord = s.statusWord := rfl
@[simp] theorem State.setBuf_nameBytes : (s.setBuf v).nameBytes = s.nameBytes := rfl
@[simp] theorem State.setBuf_token : (s.setBuf v).token = s.token := rfl
end setBuf

section setTok
variable (s : State) (v : Store)
@[simp] theorem State.setTok_name : (s.setTok v).mem.name = s.mem.name := rfl
@[simp] theorem State.setTok_buf : (s.setTok v).mem.buf = s.mem.buf := rfl
@[simp] theorem State.setTok_tok : (s.setTok v).mem.tok = v := rfl
@[simp] theorem State.setTok_nlen : (s.setTok v).nlen = s.nlen := rfl
@[simp] theorem State.setTok_h : (s.setTok v).h = s.h := rfl
@[simp] theorem State.setTok_denom : (s.setTok v).denom = s.denom := rfl
@[simp] theorem State.setTok_q : (s.setTok v).q = s.q := rfl
@[simp] theorem State.setTok_i : (s.setTok v).i = s.i := rfl
@[simp] theorem State.setTok_upc : (s.setTok v).upc = s.upc := rfl
@[simp] theorem State.setTok_tlen : (s.setTok v).tlen = s.tlen := rfl
@[simp] theorem State.setTok_response : (s.setTok v).response = s.response := rfl
@[simp] theorem State.setTok_turns : (s.setTok v).turns = s.turns := rfl
@[simp] theorem State.setTok_nameAt (a : Nat) : (s.setTok v).nameAt a = s.nameAt a := rfl
@[simp] theorem State.setTok_bufAt (a : Nat) : (s.setTok v).bufAt a = s.bufAt a := rfl
@[simp] theorem State.setTok_tokAt (a : Nat) : (s.setTok v).tokAt a = v.read a := rfl
@[simp] theorem State.setTok_n : (s.setTok v).n = s.n := rfl
@[simp] theorem State.setTok_len : (s.setTok v).len = s.len := rfl
@[simp] theorem State.setTok_tr : (s.setTok v).tr = s.tr := rfl
@[simp] theorem State.setTok_lenOk : (s.setTok v).lenOk = s.lenOk := rfl
@[simp] theorem State.setTok_pos : (s.setTok v).pos = s.pos := rfl
@[simp] theorem State.setTok_busy : (s.setTok v).busy = s.busy := rfl
@[simp] theorem State.setTok_isDone : (s.setTok v).isDone = s.isDone := rfl
@[simp] theorem State.setTok_isErr : (s.setTok v).isErr = s.isErr := rfl
@[simp] theorem State.setTok_status : (s.setTok v).status = s.status := rfl
@[simp] theorem State.setTok_statusWord : (s.setTok v).statusWord = s.statusWord := rfl
@[simp] theorem State.setTok_b0 : (s.setTok v).b0 = s.b0 := rfl
@[simp] theorem State.setTok_b1 : (s.setTok v).b1 = s.b1 := rfl
@[simp] theorem State.setTok_b2 : (s.setTok v).b2 = s.b2 := rfl
@[simp] theorem State.setTok_b3 : (s.setTok v).b3 = s.b3 := rfl
@[simp] theorem State.setTok_b4 : (s.setTok v).b4 = s.b4 := rfl
@[simp] theorem State.setTok_nameBytes : (s.setTok v).nameBytes = s.nameBytes := rfl
@[simp] theorem State.setTok_keyBuffer : (s.setTok v).keyBuffer = s.keyBuffer := rfl
end setTok

section setNlen
variable (s : State) (v : BitVec 6)
@[simp] theorem State.setNlen_name : (s.setNlen v).mem.name = s.mem.name := rfl
@[simp] theorem State.setNlen_buf : (s.setNlen v).mem.buf = s.mem.buf := rfl
@[simp] theorem State.setNlen_tok : (s.setNlen v).mem.tok = s.mem.tok := rfl
@[simp] theorem State.setNlen_nlen : (s.setNlen v).nlen = v := rfl
@[simp] theorem State.setNlen_h : (s.setNlen v).h = s.h := rfl
@[simp] theorem State.setNlen_denom : (s.setNlen v).denom = s.denom := rfl
@[simp] theorem State.setNlen_q : (s.setNlen v).q = s.q := rfl
@[simp] theorem State.setNlen_i : (s.setNlen v).i = s.i := rfl
@[simp] theorem State.setNlen_upc : (s.setNlen v).upc = s.upc := rfl
@[simp] theorem State.setNlen_tlen : (s.setNlen v).tlen = s.tlen := rfl
@[simp] theorem State.setNlen_response : (s.setNlen v).response = s.response := rfl
@[simp] theorem State.setNlen_turns : (s.setNlen v).turns = s.turns := rfl
@[simp] theorem State.setNlen_nameAt (a : Nat) : (s.setNlen v).nameAt a = s.nameAt a := rfl
@[simp] theorem State.setNlen_bufAt (a : Nat) : (s.setNlen v).bufAt a = s.bufAt a := rfl
@[simp] theorem State.setNlen_tokAt (a : Nat) : (s.setNlen v).tokAt a = s.tokAt a := rfl
@[simp] theorem State.setNlen_pos : (s.setNlen v).pos = s.pos := rfl
@[simp] theorem State.setNlen_busy : (s.setNlen v).busy = s.busy := rfl
@[simp] theorem State.setNlen_isDone : (s.setNlen v).isDone = s.isDone := rfl
@[simp] theorem State.setNlen_isErr : (s.setNlen v).isErr = s.isErr := rfl
@[simp] theorem State.setNlen_status : (s.setNlen v).status = s.status := rfl
@[simp] theorem State.setNlen_statusWord : (s.setNlen v).statusWord = s.statusWord := rfl
@[simp] theorem State.setNlen_b0 : (s.setNlen v).b0 = s.b0 := rfl
@[simp] theorem State.setNlen_b1 : (s.setNlen v).b1 = s.b1 := rfl
@[simp] theorem State.setNlen_b2 : (s.setNlen v).b2 = s.b2 := rfl
@[simp] theorem State.setNlen_b3 : (s.setNlen v).b3 = s.b3 := rfl
@[simp] theorem State.setNlen_b4 : (s.setNlen v).b4 = s.b4 := rfl
@[simp] theorem State.setNlen_token : (s.setNlen v).token = s.token := rfl
end setNlen

section setH
variable (s : State) (v : Word)
@[simp] theorem State.setH_name : (s.setH v).mem.name = s.mem.name := rfl
@[simp] theorem State.setH_buf : (s.setH v).mem.buf = s.mem.buf := rfl
@[simp] theorem State.setH_tok : (s.setH v).mem.tok = s.mem.tok := rfl
@[simp] theorem State.setH_nlen : (s.setH v).nlen = s.nlen := rfl
@[simp] theorem State.setH_h : (s.setH v).h = v := rfl
@[simp] theorem State.setH_denom : (s.setH v).denom = s.denom := rfl
@[simp] theorem State.setH_q : (s.setH v).q = s.q := rfl
@[simp] theorem State.setH_i : (s.setH v).i = s.i := rfl
@[simp] theorem State.setH_upc : (s.setH v).upc = s.upc := rfl
@[simp] theorem State.setH_tlen : (s.setH v).tlen = s.tlen := rfl
@[simp] theorem State.setH_response : (s.setH v).response = s.response := rfl
@[simp] theorem State.setH_turns : (s.setH v).turns = s.turns := rfl
@[simp] theorem State.setH_nameAt (a : Nat) : (s.setH v).nameAt a = s.nameAt a := rfl
@[simp] theorem State.setH_bufAt (a : Nat) : (s.setH v).bufAt a = s.bufAt a := rfl
@[simp] theorem State.setH_tokAt (a : Nat) : (s.setH v).tokAt a = s.tokAt a := rfl
@[simp] theorem State.setH_n : (s.setH v).n = s.n := rfl
@[simp] theorem State.setH_len : (s.setH v).len = s.len := rfl
@[simp] theorem State.setH_tr : (s.setH v).tr = s.tr := rfl
@[simp] theorem State.setH_lenOk : (s.setH v).lenOk = s.lenOk := rfl
@[simp] theorem State.setH_pos : (s.setH v).pos = s.pos := rfl
@[simp] theorem State.setH_busy : (s.setH v).busy = s.busy := rfl
@[simp] theorem State.setH_isDone : (s.setH v).isDone = s.isDone := rfl
@[simp] theorem State.setH_isErr : (s.setH v).isErr = s.isErr := rfl
@[simp] theorem State.setH_status : (s.setH v).status = s.status := rfl
@[simp] theorem State.setH_statusWord : (s.setH v).statusWord = s.statusWord := rfl
@[simp] theorem State.setH_b0 : (s.setH v).b0 = s.b0 := rfl
@[simp] theorem State.setH_b1 : (s.setH v).b1 = s.b1 := rfl
@[simp] theorem State.setH_b2 : (s.setH v).b2 = s.b2 := rfl
@[simp] theorem State.setH_b3 : (s.setH v).b3 = s.b3 := rfl
@[simp] theorem State.setH_b4 : (s.setH v).b4 = s.b4 := rfl
@[simp] theorem State.setH_nameBytes : (s.setH v).nameBytes = s.nameBytes := rfl
@[simp] theorem State.setH_keyBuffer : (s.setH v).keyBuffer = s.keyBuffer := rfl
@[simp] theorem State.setH_token : (s.setH v).token = s.token := rfl
end setH

section setDenom
variable (s : State) (v : Byte)
@[simp] theorem State.setDenom_name : (s.setDenom v).mem.name = s.mem.name := rfl
@[simp] theorem State.setDenom_buf : (s.setDenom v).mem.buf = s.mem.buf := rfl
@[simp] theorem State.setDenom_tok : (s.setDenom v).mem.tok = s.mem.tok := rfl
@[simp] theorem State.setDenom_nlen : (s.setDenom v).nlen = s.nlen := rfl
@[simp] theorem State.setDenom_h : (s.setDenom v).h = s.h := rfl
@[simp] theorem State.setDenom_denom : (s.setDenom v).denom = v := rfl
@[simp] theorem State.setDenom_q : (s.setDenom v).q = s.q := rfl
@[simp] theorem State.setDenom_i : (s.setDenom v).i = s.i := rfl
@[simp] theorem State.setDenom_upc : (s.setDenom v).upc = s.upc := rfl
@[simp] theorem State.setDenom_tlen : (s.setDenom v).tlen = s.tlen := rfl
@[simp] theorem State.setDenom_response : (s.setDenom v).response = s.response := rfl
@[simp] theorem State.setDenom_turns : (s.setDenom v).turns = s.turns := rfl
@[simp] theorem State.setDenom_nameAt (a : Nat) : (s.setDenom v).nameAt a = s.nameAt a := rfl
@[simp] theorem State.setDenom_bufAt (a : Nat) : (s.setDenom v).bufAt a = s.bufAt a := rfl
@[simp] theorem State.setDenom_tokAt (a : Nat) : (s.setDenom v).tokAt a = s.tokAt a := rfl
@[simp] theorem State.setDenom_n : (s.setDenom v).n = s.n := rfl
@[simp] theorem State.setDenom_len : (s.setDenom v).len = s.len := rfl
@[simp] theorem State.setDenom_tr : (s.setDenom v).tr = s.tr := rfl
@[simp] theorem State.setDenom_lenOk : (s.setDenom v).lenOk = s.lenOk := rfl
@[simp] theorem State.setDenom_pos : (s.setDenom v).pos = s.pos := rfl
@[simp] theorem State.setDenom_busy : (s.setDenom v).busy = s.busy := rfl
@[simp] theorem State.setDenom_isDone : (s.setDenom v).isDone = s.isDone := rfl
@[simp] theorem State.setDenom_isErr : (s.setDenom v).isErr = s.isErr := rfl
@[simp] theorem State.setDenom_status : (s.setDenom v).status = s.status := rfl
@[simp] theorem State.setDenom_statusWord : (s.setDenom v).statusWord = s.statusWord := rfl
@[simp] theorem State.setDenom_b0 : (s.setDenom v).b0 = s.b0 := rfl
@[simp] theorem State.setDenom_b1 : (s.setDenom v).b1 = s.b1 := rfl
@[simp] theorem State.setDenom_b2 : (s.setDenom v).b2 = s.b2 := rfl
@[simp] theorem State.setDenom_b3 : (s.setDenom v).b3 = s.b3 := rfl
@[simp] theorem State.setDenom_b4 : (s.setDenom v).b4 = s.b4 := rfl
@[simp] theorem State.setDenom_nameBytes : (s.setDenom v).nameBytes = s.nameBytes := rfl
@[simp] theorem State.setDenom_keyBuffer : (s.setDenom v).keyBuffer = s.keyBuffer := rfl
@[simp] theorem State.setDenom_token : (s.setDenom v).token = s.token := rfl
end setDenom

section setQ
variable (s : State) (v : Byte)
@[simp] theorem State.setQ_name : (s.setQ v).mem.name = s.mem.name := rfl
@[simp] theorem State.setQ_buf : (s.setQ v).mem.buf = s.mem.buf := rfl
@[simp] theorem State.setQ_tok : (s.setQ v).mem.tok = s.mem.tok := rfl
@[simp] theorem State.setQ_nlen : (s.setQ v).nlen = s.nlen := rfl
@[simp] theorem State.setQ_h : (s.setQ v).h = s.h := rfl
@[simp] theorem State.setQ_denom : (s.setQ v).denom = s.denom := rfl
@[simp] theorem State.setQ_q : (s.setQ v).q = v := rfl
@[simp] theorem State.setQ_i : (s.setQ v).i = s.i := rfl
@[simp] theorem State.setQ_upc : (s.setQ v).upc = s.upc := rfl
@[simp] theorem State.setQ_tlen : (s.setQ v).tlen = s.tlen := rfl
@[simp] theorem State.setQ_response : (s.setQ v).response = s.response := rfl
@[simp] theorem State.setQ_turns : (s.setQ v).turns = s.turns := rfl
@[simp] theorem State.setQ_nameAt (a : Nat) : (s.setQ v).nameAt a = s.nameAt a := rfl
@[simp] theorem State.setQ_bufAt (a : Nat) : (s.setQ v).bufAt a = s.bufAt a := rfl
@[simp] theorem State.setQ_tokAt (a : Nat) : (s.setQ v).tokAt a = s.tokAt a := rfl
@[simp] theorem State.setQ_n : (s.setQ v).n = s.n := rfl
@[simp] theorem State.setQ_len : (s.setQ v).len = s.len := rfl
@[simp] theorem State.setQ_tr : (s.setQ v).tr = s.tr := rfl
@[simp] theorem State.setQ_lenOk : (s.setQ v).lenOk = s.lenOk := rfl
@[simp] theorem State.setQ_pos : (s.setQ v).pos = s.pos := rfl
@[simp] theorem State.setQ_busy : (s.setQ v).busy = s.busy := rfl
@[simp] theorem State.setQ_isDone : (s.setQ v).isDone = s.isDone := rfl
@[simp] theorem State.setQ_isErr : (s.setQ v).isErr = s.isErr := rfl
@[simp] theorem State.setQ_status : (s.setQ v).status = s.status := rfl
@[simp] theorem State.setQ_statusWord : (s.setQ v).statusWord = s.statusWord := rfl
@[simp] theorem State.setQ_b0 : (s.setQ v).b0 = s.b0 := rfl
@[simp] theorem State.setQ_b1 : (s.setQ v).b1 = s.b1 := rfl
@[simp] theorem State.setQ_b2 : (s.setQ v).b2 = s.b2 := rfl
@[simp] theorem State.setQ_b3 : (s.setQ v).b3 = s.b3 := rfl
@[simp] theorem State.setQ_b4 : (s.setQ v).b4 = s.b4 := rfl
@[simp] theorem State.setQ_nameBytes : (s.setQ v).nameBytes = s.nameBytes := rfl
@[simp] theorem State.setQ_keyBuffer : (s.setQ v).keyBuffer = s.keyBuffer := rfl
@[simp] theorem State.setQ_token : (s.setQ v).token = s.token := rfl
end setQ

section setI
variable (s : State) (v : BitVec 6)
@[simp] theorem State.setI_name : (s.setI v).mem.name = s.mem.name := rfl
@[simp] theorem State.setI_buf : (s.setI v).mem.buf = s.mem.buf := rfl
@[simp] theorem State.setI_tok : (s.setI v).mem.tok = s.mem.tok := rfl
@[simp] theorem State.setI_nlen : (s.setI v).nlen = s.nlen := rfl
@[simp] theorem State.setI_h : (s.setI v).h = s.h := rfl
@[simp] theorem State.setI_denom : (s.setI v).denom = s.denom := rfl
@[simp] theorem State.setI_q : (s.setI v).q = s.q := rfl
@[simp] theorem State.setI_i : (s.setI v).i = v := rfl
@[simp] theorem State.setI_upc : (s.setI v).upc = s.upc := rfl
@[simp] theorem State.setI_tlen : (s.setI v).tlen = s.tlen := rfl
@[simp] theorem State.setI_response : (s.setI v).response = s.response := rfl
@[simp] theorem State.setI_turns : (s.setI v).turns = s.turns := rfl
@[simp] theorem State.setI_nameAt (a : Nat) : (s.setI v).nameAt a = s.nameAt a := rfl
@[simp] theorem State.setI_bufAt (a : Nat) : (s.setI v).bufAt a = s.bufAt a := rfl
@[simp] theorem State.setI_tokAt (a : Nat) : (s.setI v).tokAt a = s.tokAt a := rfl
@[simp] theorem State.setI_n : (s.setI v).n = s.n := rfl
@[simp] theorem State.setI_len : (s.setI v).len = s.len := rfl
@[simp] theorem State.setI_tr : (s.setI v).tr = s.tr := rfl
@[simp] theorem State.setI_lenOk : (s.setI v).lenOk = s.lenOk := rfl
@[simp] theorem State.setI_busy : (s.setI v).busy = s.busy := rfl
@[simp] theorem State.setI_isDone : (s.setI v).isDone = s.isDone := rfl
@[simp] theorem State.setI_isErr : (s.setI v).isErr = s.isErr := rfl
@[simp] theorem State.setI_status : (s.setI v).status = s.status := rfl
@[simp] theorem State.setI_statusWord : (s.setI v).statusWord = s.statusWord := rfl
@[simp] theorem State.setI_b0 : (s.setI v).b0 = s.b0 := rfl
@[simp] theorem State.setI_b1 : (s.setI v).b1 = s.b1 := rfl
@[simp] theorem State.setI_b2 : (s.setI v).b2 = s.b2 := rfl
@[simp] theorem State.setI_b3 : (s.setI v).b3 = s.b3 := rfl
@[simp] theorem State.setI_b4 : (s.setI v).b4 = s.b4 := rfl
@[simp] theorem State.setI_nameBytes : (s.setI v).nameBytes = s.nameBytes := rfl
@[simp] theorem State.setI_keyBuffer : (s.setI v).keyBuffer = s.keyBuffer := rfl
@[simp] theorem State.setI_token : (s.setI v).token = s.token := rfl
end setI

section setUpc
variable (s : State) (v : UopCode)
@[simp] theorem State.setUpc_name : (s.setUpc v).mem.name = s.mem.name := rfl
@[simp] theorem State.setUpc_buf : (s.setUpc v).mem.buf = s.mem.buf := rfl
@[simp] theorem State.setUpc_tok : (s.setUpc v).mem.tok = s.mem.tok := rfl
@[simp] theorem State.setUpc_nlen : (s.setUpc v).nlen = s.nlen := rfl
@[simp] theorem State.setUpc_h : (s.setUpc v).h = s.h := rfl
@[simp] theorem State.setUpc_denom : (s.setUpc v).denom = s.denom := rfl
@[simp] theorem State.setUpc_q : (s.setUpc v).q = s.q := rfl
@[simp] theorem State.setUpc_i : (s.setUpc v).i = s.i := rfl
@[simp] theorem State.setUpc_upc : (s.setUpc v).upc = v := rfl
@[simp] theorem State.setUpc_tlen : (s.setUpc v).tlen = s.tlen := rfl
@[simp] theorem State.setUpc_response : (s.setUpc v).response = s.response := rfl
@[simp] theorem State.setUpc_turns : (s.setUpc v).turns = s.turns := rfl
@[simp] theorem State.setUpc_nameAt (a : Nat) : (s.setUpc v).nameAt a = s.nameAt a := rfl
@[simp] theorem State.setUpc_bufAt (a : Nat) : (s.setUpc v).bufAt a = s.bufAt a := rfl
@[simp] theorem State.setUpc_tokAt (a : Nat) : (s.setUpc v).tokAt a = s.tokAt a := rfl
@[simp] theorem State.setUpc_n : (s.setUpc v).n = s.n := rfl
@[simp] theorem State.setUpc_len : (s.setUpc v).len = s.len := rfl
@[simp] theorem State.setUpc_tr : (s.setUpc v).tr = s.tr := rfl
@[simp] theorem State.setUpc_lenOk : (s.setUpc v).lenOk = s.lenOk := rfl
@[simp] theorem State.setUpc_pos : (s.setUpc v).pos = s.pos := rfl
@[simp] theorem State.setUpc_b0 : (s.setUpc v).b0 = s.b0 := rfl
@[simp] theorem State.setUpc_b1 : (s.setUpc v).b1 = s.b1 := rfl
@[simp] theorem State.setUpc_b2 : (s.setUpc v).b2 = s.b2 := rfl
@[simp] theorem State.setUpc_b3 : (s.setUpc v).b3 = s.b3 := rfl
@[simp] theorem State.setUpc_b4 : (s.setUpc v).b4 = s.b4 := rfl
@[simp] theorem State.setUpc_nameBytes : (s.setUpc v).nameBytes = s.nameBytes := rfl
@[simp] theorem State.setUpc_keyBuffer : (s.setUpc v).keyBuffer = s.keyBuffer := rfl
@[simp] theorem State.setUpc_token : (s.setUpc v).token = s.token := rfl
end setUpc

section setTlen
variable (s : State) (v : BitVec 7)
@[simp] theorem State.setTlen_name : (s.setTlen v).mem.name = s.mem.name := rfl
@[simp] theorem State.setTlen_buf : (s.setTlen v).mem.buf = s.mem.buf := rfl
@[simp] theorem State.setTlen_tok : (s.setTlen v).mem.tok = s.mem.tok := rfl
@[simp] theorem State.setTlen_nlen : (s.setTlen v).nlen = s.nlen := rfl
@[simp] theorem State.setTlen_h : (s.setTlen v).h = s.h := rfl
@[simp] theorem State.setTlen_denom : (s.setTlen v).denom = s.denom := rfl
@[simp] theorem State.setTlen_q : (s.setTlen v).q = s.q := rfl
@[simp] theorem State.setTlen_i : (s.setTlen v).i = s.i := rfl
@[simp] theorem State.setTlen_upc : (s.setTlen v).upc = s.upc := rfl
@[simp] theorem State.setTlen_tlen : (s.setTlen v).tlen = v := rfl
@[simp] theorem State.setTlen_response : (s.setTlen v).response = s.response := rfl
@[simp] theorem State.setTlen_turns : (s.setTlen v).turns = s.turns := rfl
@[simp] theorem State.setTlen_nameAt (a : Nat) : (s.setTlen v).nameAt a = s.nameAt a := rfl
@[simp] theorem State.setTlen_bufAt (a : Nat) : (s.setTlen v).bufAt a = s.bufAt a := rfl
@[simp] theorem State.setTlen_tokAt (a : Nat) : (s.setTlen v).tokAt a = s.tokAt a := rfl
@[simp] theorem State.setTlen_n : (s.setTlen v).n = s.n := rfl
@[simp] theorem State.setTlen_len : (s.setTlen v).len = s.len := rfl
@[simp] theorem State.setTlen_tr : (s.setTlen v).tr = s.tr := rfl
@[simp] theorem State.setTlen_lenOk : (s.setTlen v).lenOk = s.lenOk := rfl
@[simp] theorem State.setTlen_pos : (s.setTlen v).pos = s.pos := rfl
@[simp] theorem State.setTlen_busy : (s.setTlen v).busy = s.busy := rfl
@[simp] theorem State.setTlen_isDone : (s.setTlen v).isDone = s.isDone := rfl
@[simp] theorem State.setTlen_isErr : (s.setTlen v).isErr = s.isErr := rfl
@[simp] theorem State.setTlen_status : (s.setTlen v).status = s.status := rfl
@[simp] theorem State.setTlen_b0 : (s.setTlen v).b0 = s.b0 := rfl
@[simp] theorem State.setTlen_b1 : (s.setTlen v).b1 = s.b1 := rfl
@[simp] theorem State.setTlen_b2 : (s.setTlen v).b2 = s.b2 := rfl
@[simp] theorem State.setTlen_b3 : (s.setTlen v).b3 = s.b3 := rfl
@[simp] theorem State.setTlen_b4 : (s.setTlen v).b4 = s.b4 := rfl
@[simp] theorem State.setTlen_nameBytes : (s.setTlen v).nameBytes = s.nameBytes := rfl
@[simp] theorem State.setTlen_keyBuffer : (s.setTlen v).keyBuffer = s.keyBuffer := rfl
end setTlen

section setResponse
variable (s : State) (v : PortWord)
@[simp] theorem State.setResponse_name : (s.setResponse v).mem.name = s.mem.name := rfl
@[simp] theorem State.setResponse_buf : (s.setResponse v).mem.buf = s.mem.buf := rfl
@[simp] theorem State.setResponse_tok : (s.setResponse v).mem.tok = s.mem.tok := rfl
@[simp] theorem State.setResponse_nlen : (s.setResponse v).nlen = s.nlen := rfl
@[simp] theorem State.setResponse_h : (s.setResponse v).h = s.h := rfl
@[simp] theorem State.setResponse_denom : (s.setResponse v).denom = s.denom := rfl
@[simp] theorem State.setResponse_q : (s.setResponse v).q = s.q := rfl
@[simp] theorem State.setResponse_i : (s.setResponse v).i = s.i := rfl
@[simp] theorem State.setResponse_upc : (s.setResponse v).upc = s.upc := rfl
@[simp] theorem State.setResponse_tlen : (s.setResponse v).tlen = s.tlen := rfl
@[simp] theorem State.setResponse_response : (s.setResponse v).response = v := rfl
@[simp] theorem State.setResponse_turns : (s.setResponse v).turns = s.turns := rfl
@[simp] theorem State.setResponse_nameAt (a : Nat) : (s.setResponse v).nameAt a = s.nameAt a := rfl
@[simp] theorem State.setResponse_bufAt (a : Nat) : (s.setResponse v).bufAt a = s.bufAt a := rfl
@[simp] theorem State.setResponse_tokAt (a : Nat) : (s.setResponse v).tokAt a = s.tokAt a := rfl
@[simp] theorem State.setResponse_n : (s.setResponse v).n = s.n := rfl
@[simp] theorem State.setResponse_len : (s.setResponse v).len = s.len := rfl
@[simp] theorem State.setResponse_tr : (s.setResponse v).tr = s.tr := rfl
@[simp] theorem State.setResponse_lenOk : (s.setResponse v).lenOk = s.lenOk := rfl
@[simp] theorem State.setResponse_pos : (s.setResponse v).pos = s.pos := rfl
@[simp] theorem State.setResponse_busy : (s.setResponse v).busy = s.busy := rfl
@[simp] theorem State.setResponse_isDone : (s.setResponse v).isDone = s.isDone := rfl
@[simp] theorem State.setResponse_isErr : (s.setResponse v).isErr = s.isErr := rfl
@[simp] theorem State.setResponse_status : (s.setResponse v).status = s.status := rfl
@[simp] theorem State.setResponse_statusWord : (s.setResponse v).statusWord = s.statusWord := rfl
@[simp] theorem State.setResponse_b0 : (s.setResponse v).b0 = s.b0 := rfl
@[simp] theorem State.setResponse_b1 : (s.setResponse v).b1 = s.b1 := rfl
@[simp] theorem State.setResponse_b2 : (s.setResponse v).b2 = s.b2 := rfl
@[simp] theorem State.setResponse_b3 : (s.setResponse v).b3 = s.b3 := rfl
@[simp] theorem State.setResponse_b4 : (s.setResponse v).b4 = s.b4 := rfl
@[simp] theorem State.setResponse_nameBytes : (s.setResponse v).nameBytes = s.nameBytes := rfl
@[simp] theorem State.setResponse_keyBuffer : (s.setResponse v).keyBuffer = s.keyBuffer := rfl
@[simp] theorem State.setResponse_token : (s.setResponse v).token = s.token := rfl
end setResponse

section setTurns
variable (s : State) (v : List Turn)
@[simp] theorem State.setTurns_name : (s.setTurns v).mem.name = s.mem.name := rfl
@[simp] theorem State.setTurns_buf : (s.setTurns v).mem.buf = s.mem.buf := rfl
@[simp] theorem State.setTurns_tok : (s.setTurns v).mem.tok = s.mem.tok := rfl
@[simp] theorem State.setTurns_nlen : (s.setTurns v).nlen = s.nlen := rfl
@[simp] theorem State.setTurns_h : (s.setTurns v).h = s.h := rfl
@[simp] theorem State.setTurns_denom : (s.setTurns v).denom = s.denom := rfl
@[simp] theorem State.setTurns_q : (s.setTurns v).q = s.q := rfl
@[simp] theorem State.setTurns_i : (s.setTurns v).i = s.i := rfl
@[simp] theorem State.setTurns_upc : (s.setTurns v).upc = s.upc := rfl
@[simp] theorem State.setTurns_tlen : (s.setTurns v).tlen = s.tlen := rfl
@[simp] theorem State.setTurns_response : (s.setTurns v).response = s.response := rfl
@[simp] theorem State.setTurns_turns : (s.setTurns v).turns = v := rfl
@[simp] theorem State.setTurns_nameAt (a : Nat) : (s.setTurns v).nameAt a = s.nameAt a := rfl
@[simp] theorem State.setTurns_bufAt (a : Nat) : (s.setTurns v).bufAt a = s.bufAt a := rfl
@[simp] theorem State.setTurns_tokAt (a : Nat) : (s.setTurns v).tokAt a = s.tokAt a := rfl
@[simp] theorem State.setTurns_n : (s.setTurns v).n = s.n := rfl
@[simp] theorem State.setTurns_len : (s.setTurns v).len = s.len := rfl
@[simp] theorem State.setTurns_tr : (s.setTurns v).tr = s.tr := rfl
@[simp] theorem State.setTurns_lenOk : (s.setTurns v).lenOk = s.lenOk := rfl
@[simp] theorem State.setTurns_pos : (s.setTurns v).pos = s.pos := rfl
@[simp] theorem State.setTurns_busy : (s.setTurns v).busy = s.busy := rfl
@[simp] theorem State.setTurns_isDone : (s.setTurns v).isDone = s.isDone := rfl
@[simp] theorem State.setTurns_isErr : (s.setTurns v).isErr = s.isErr := rfl
@[simp] theorem State.setTurns_status : (s.setTurns v).status = s.status := rfl
@[simp] theorem State.setTurns_statusWord : (s.setTurns v).statusWord = s.statusWord := rfl
@[simp] theorem State.setTurns_b0 : (s.setTurns v).b0 = s.b0 := rfl
@[simp] theorem State.setTurns_b1 : (s.setTurns v).b1 = s.b1 := rfl
@[simp] theorem State.setTurns_b2 : (s.setTurns v).b2 = s.b2 := rfl
@[simp] theorem State.setTurns_b3 : (s.setTurns v).b3 = s.b3 := rfl
@[simp] theorem State.setTurns_b4 : (s.setTurns v).b4 = s.b4 := rfl
@[simp] theorem State.setTurns_nameBytes : (s.setTurns v).nameBytes = s.nameBytes := rfl
@[simp] theorem State.setTurns_keyBuffer : (s.setTurns v).keyBuffer = s.keyBuffer := rfl
@[simp] theorem State.setTurns_token : (s.setTurns v).token = s.token := rfl
end setTurns

/-- The lengths in numbers. -/
theorem State.n_lt (s : State) : s.n < 64 := s.nlen.isLt
theorem State.pos_lt (s : State) : s.pos < 64 := s.i.isLt
theorem State.len_eq (s : State) : s.len = 15 + s.n := rfl
theorem State.tr_eq (s : State) : s.tr = 9 + s.n := rfl
theorem State.lenOk_iff (s : State) : s.lenOk = true ↔ 5 ≤ s.n ∧ s.n ≤ 32 := by
  simp only [State.lenOk, Params.nMin, Params.nMax, Bool.and_eq_true, decide_eq_true_eq]
theorem State.busy_iff (s : State) : s.busy = true ↔ 1 ≤ s.upc.toNat ∧ s.upc.toNat ≤ 18 := by
  simp [State.busy]
theorem State.isDone_iff (s : State) : s.isDone = true ↔ s.upc = 19 := by simp [State.isDone]
theorem State.isErr_iff (s : State) : s.isErr = true ↔ s.upc = 20 := by simp [State.isErr]

end Sys2Proof.Machine
end

