-- ==== Sys2Proof/Laws/Store.lean ====
section
/-! SUPPORT. The laws of a byte store: read after write, blocks, and the canonical form, which every
operation keeps and which makes two stores with the same bytes the same list. -/

namespace Sys2Proof.Machine

namespace Store

/-! ## Read after write -/

@[simp] theorem read_zeroed (a : Nat) : read zeroed a = unlisted := rfl

theorem read_remove (m : Store) (a b : Nat) :
    read (remove m a) b = if b = a then unlisted else read m b := by
  induction m with
  | nil => simp [remove, read]
  | cons c m ih =>
    obtain ⟨k, v⟩ := c
    by_cases hk : k = a
    · subst hk
      by_cases hb : b = k
      · subst hb; simpa [remove] using ih
      · have : ¬ k = b := fun h => hb h.symm
        simp [remove, read, ih, hb, this]
    · by_cases hkb : k = b
      · subst hkb; simp [remove, read, hk]
      · simp [remove, read, hk, hkb, ih]

theorem length_remove_le (m : Store) (a : Nat) : List.length (remove m a) ≤ List.length m := by
  induction m with
  | nil => exact Nat.le_refl _
  | cons c m ih =>
    obtain ⟨k, v⟩ := c
    by_cases hk : k = a
    · rw [remove, if_pos hk, List.length_cons]; omega
    · rw [remove, if_neg hk, List.length_cons, List.length_cons]; omega

theorem read_put (m : Store) (a b : Nat) (v : Byte) (h : remove m a = m) :
    read (put m a v) b = if b = a then v else read m b := by
  induction m with
  | nil => by_cases hb : a = b <;> simp [put, read, hb, eq_comm]
  | cons c m ih =>
    obtain ⟨k, w⟩ := c
    have hk : k ≠ a := by
      intro hk
      have hl := length_remove_le m a
      rw [remove, if_pos hk] at h
      have := congrArg List.length h
      rw [List.length_cons] at this; omega
    have hm : remove m a = m := by
      rw [remove, if_neg hk] at h; exact (List.cons.inj h).2
    by_cases hlt : a < k
    · by_cases hb : a = b
      · subst hb; simp [put, read, hlt]
      · have : ¬ b = a := fun e => hb e.symm
        simp [put, read, hlt, hb, this]
    · by_cases hb : k = b
      · subst hb; simp [put, read, hlt, hk]
      · simp [put, read, hlt, hb, ih hm]

theorem remove_remove (m : Store) (a : Nat) : remove (remove m a) a = remove m a := by
  induction m with
  | nil => rfl
  | cons c m ih => obtain ⟨k, v⟩ := c; by_cases hk : k = a <;> simp [remove, hk, ih]

/-- Reading after one byte is written: that byte is the one written, every other is as before. -/
theorem read_write (m : Store) (a b : Nat) (v : Byte) :
    (m.write a v).read b = if b = a then v else read m b := by
  by_cases hv : v = unlisted
  · by_cases hb : b = a <;> simp [write, hv, read_remove, hb]
  · rw [write, if_neg hv, read_put _ _ _ _ (remove_remove m a), read_remove]
    by_cases hb : b = a <;> simp [hb]

@[simp] theorem read_write_same (m : Store) (a : Nat) (v : Byte) : (m.write a v).read a = v := by
  simp [read_write]

theorem read_write_ne (m : Store) {a b : Nat} (v : Byte) (h : b ≠ a) :
    (m.write a v).read b = read m b := by
  simp [read_write, h]

/-! ## Blocks -/

/-- Reading after a block is written: the block's byte inside it, the old byte outside. -/
theorem read_writeBlock (vs : List Byte) (m : Store) (a b : Nat) :
    (m.writeBlock a vs).read b =
      if a ≤ b ∧ b < a + vs.length then vs.getD (b - a) 0 else read m b := by
  induction vs generalizing m a with
  | nil => simp [writeBlock]
  | cons v vs ih =>
    rw [writeBlock, ih, read_write]
    by_cases hb : b = a
    · subst hb; simp
    · by_cases h : a + 1 ≤ b ∧ b < a + 1 + vs.length
      · have h' : a ≤ b ∧ b < a + (v :: vs).length := by simp; omega
        obtain ⟨d, rfl⟩ : ∃ d, b = a + 1 + d := ⟨b - (a + 1), by omega⟩
        rw [if_pos h, if_pos h', show a + 1 + d - (a + 1) = d by omega,
          show a + 1 + d - a = d + 1 by omega]
        simp
      · have h' : ¬ (a ≤ b ∧ b < a + (v :: vs).length) := by simp; omega
        rw [if_neg h, if_neg h', if_neg hb]

theorem read_writeBlock_outside (vs : List Byte) (m : Store) {a b : Nat}
    (h : b < a ∨ a + vs.length ≤ b) : (m.writeBlock a vs).read b = read m b := by
  rw [read_writeBlock, if_neg (by omega)]

@[simp] theorem length_readBlock (m : Store) (a n : Nat) : (m.readBlock a n).length = n := by
  simp [readBlock]

theorem getD_readBlock (m : Store) (a n k : Nat) (h : k < n) :
    (m.readBlock a n).getD k 0 = read m (a + k) := by
  simp [readBlock, List.getD, h]

/-- Two blocks are equal when every byte reads the same. -/
theorem readBlock_congr {m m' : Store} {a a' n : Nat}
    (h : ∀ k, k < n → read m (a + k) = read m' (a' + k)) : m.readBlock a n = m'.readBlock a' n := by
  apply List.map_congr_left
  intro k hk
  exact h k (List.mem_range.mp hk)

/-! ## The canonical form -/

theorem wfFrom_mono {cap lo lo' : Nat} {m : Store} (h : lo' ≤ lo) (hw : wfFrom cap lo m = true) :
    wfFrom cap lo' m = true := by
  cases m with
  | nil => rfl
  | cons c m =>
    obtain ⟨k, v⟩ := c
    simp only [wfFrom, Bool.and_eq_true, decide_eq_true_eq] at hw ⊢
    exact ⟨⟨⟨by omega, hw.1.1.2⟩, hw.1.2⟩, hw.2⟩

theorem wfFrom_remove {cap lo : Nat} {m : Store} (a : Nat) (hw : wfFrom cap lo m = true) :
    wfFrom cap lo (remove m a) = true := by
  induction m generalizing lo with
  | nil => rfl
  | cons c m ih =>
    obtain ⟨k, v⟩ := c
    simp only [wfFrom, Bool.and_eq_true, decide_eq_true_eq] at hw
    by_cases hk : k = a
    · rw [remove, if_pos hk]
      exact wfFrom_mono (by omega) (ih hw.2)
    · rw [remove, if_neg hk]
      simp only [wfFrom, Bool.and_eq_true, decide_eq_true_eq]
      exact ⟨hw.1, ih hw.2⟩

theorem wfFrom_put {cap lo : Nat} {m : Store} {a : Nat} {v : Byte} (hlo : lo ≤ a) (ha : a < cap)
    (hv : v ≠ unlisted) (hn : remove m a = m) (hw : wfFrom cap lo m = true) :
    wfFrom cap lo (put m a v) = true := by
  induction m generalizing lo with
  | nil => simp [put, wfFrom, hlo, ha, hv]
  | cons c m ih =>
    obtain ⟨k, w⟩ := c
    have hk : k ≠ a := by
      intro hk
      have hr := read_remove ((k, w) :: m) a a
      rw [hn] at hr
      simp only [wfFrom, Bool.and_eq_true, decide_eq_true_eq] at hw
      simp [read, hk] at hr
      exact hw.1.2 hr
    have hm : remove m a = m := by
      rw [remove, if_neg hk] at hn; exact (List.cons.inj hn).2
    simp only [wfFrom, Bool.and_eq_true, decide_eq_true_eq] at hw
    by_cases hlt : a < k
    · rw [put, if_pos hlt]
      simp only [wfFrom, Bool.and_eq_true, decide_eq_true_eq]
      exact ⟨⟨⟨hlo, ha⟩, hv⟩, ⟨⟨hlt, hw.1.1.2⟩, hw.1.2⟩, hw.2⟩
    · rw [put, if_neg hlt]
      simp only [wfFrom, Bool.and_eq_true, decide_eq_true_eq]
      exact ⟨hw.1, ih (by omega) hm hw.2⟩

/-- Writing a byte inside the store keeps the canonical form. -/
theorem wf_write {cap : Nat} {m : Store} {a : Nat} (v : Byte) (ha : a < cap) (hw : m.wf cap = true) :
    (m.write a v).wf cap = true := by
  by_cases hv : v = unlisted
  · rw [write, if_pos hv]; exact wfFrom_remove a hw
  · rw [write, if_neg hv]
    exact wfFrom_put (Nat.zero_le a) ha hv (remove_remove m a) (wfFrom_remove a hw)

/-- Writing a block inside the store keeps the canonical form. -/
theorem wf_writeBlock {cap : Nat} (vs : List Byte) {m : Store} {a : Nat} (ha : a + vs.length ≤ cap)
    (hw : m.wf cap = true) : (m.writeBlock a vs).wf cap = true := by
  induction vs generalizing m a with
  | nil => exact hw
  | cons v vs ih =>
    simp at ha
    exact ih (by omega) (wf_write v (by omega) hw)

@[simp] theorem wf_zeroed (cap : Nat) : zeroed.wf cap = true := rfl

theorem read_below_wfFrom {cap lo a : Nat} {m : Store} (hw : wfFrom cap lo m = true) (h : a < lo) :
    read m a = unlisted := by
  induction m generalizing lo with
  | nil => rfl
  | cons c m ih =>
    obtain ⟨k, v⟩ := c
    simp only [wfFrom, Bool.and_eq_true, decide_eq_true_eq] at hw
    rw [read, if_neg (by omega)]
    exact ih hw.2 (by omega)

/-- In canonical form an index outside the capacity is never listed. -/
theorem read_outside_wfFrom {cap lo a : Nat} {m : Store} (hw : wfFrom cap lo m = true) (h : cap ≤ a) :
    read m a = unlisted := by
  induction m generalizing lo with
  | nil => rfl
  | cons c m ih =>
    obtain ⟨k, v⟩ := c
    simp only [wfFrom, Bool.and_eq_true, decide_eq_true_eq] at hw
    rw [read, if_neg (by omega)]
    exact ih hw.2

theorem ext_wfFrom {cap lo : Nat} {m m' : Store} (hw : wfFrom cap lo m = true)
    (hw' : wfFrom cap lo m' = true) (h : ∀ a, read m a = read m' a) : m = m' := by
  induction m generalizing lo m' with
  | nil =>
    cases m' with
    | nil => rfl
    | cons c m' =>
      obtain ⟨k, v⟩ := c
      simp only [wfFrom, Bool.and_eq_true, decide_eq_true_eq] at hw'
      have := h k
      simp [read] at this
      exact absurd this.symm hw'.1.2
  | cons c m ih =>
    obtain ⟨k, v⟩ := c
    simp only [wfFrom, Bool.and_eq_true, decide_eq_true_eq] at hw
    cases m' with
    | nil =>
      have := h k
      simp [read] at this
      exact absurd this hw.1.2
    | cons c' m' =>
      obtain ⟨k', v'⟩ := c'
      simp only [wfFrom, Bool.and_eq_true, decide_eq_true_eq] at hw'
      have hkk : k = k' := by
        rcases Nat.lt_trichotomy k k' with hlt | heq | hgt
        · have := h k
          rw [read, if_pos rfl, read, if_neg (by omega), read_below_wfFrom hw'.2 (by omega)] at this
          exact absurd this hw.1.2
        · exact heq
        · have := h k'
          rw [read, if_neg (by omega), read_below_wfFrom hw.2 (by omega), read, if_pos rfl] at this
          exact absurd this.symm hw'.1.2
      subst hkk
      have hv : v = v' := by simpa [read] using h k
      subst hv
      rw [ih hw.2 hw'.2]
      intro a
      by_cases ha : k = a
      · subst ha
        rw [read_below_wfFrom hw.2 (by omega), read_below_wfFrom hw'.2 (by omega)]
      · simpa [read, ha] using h a

/-- Two stores in canonical form with the same bytes are the same list. -/
theorem ext_wf {cap : Nat} {m m' : Store} (hw : m.wf cap = true) (hw' : m'.wf cap = true)
    (h : ∀ a, read m a = read m' a) : m = m' := ext_wfFrom hw hw' h

end Store

/-- The canonical form of the memory, store by store. -/
theorem Memory.wf_iff (m : Memory) :
    m.wf = true ↔ m.name.wf 32 = true ∧ m.buf.wf 47 = true ∧ m.tok.wf 96 = true := by
  simp [Memory.wf, Params.nameCap, Params.bufCap, Params.tokCap, Params.lenMax, Params.nMax,
    Params.ovh, Params.hdrLen, Params.trlLen, and_assoc]

/-- Reset's memory is in canonical form. -/
theorem reset_mem_wf : State.reset.mem.wf = true := by decide

end Sys2Proof.Machine
end

