-- ==== Sys2Proof/Laws/Ops.lean ====
section
/-! SUPPORT. What each shared operation can do, said once: when it answers a next state and which one,
when it stops, and how the elements look afterwards. -/

namespace Sys2Proof.Machine

/-! ## Combining -/

@[simp] theorem andThen_next (s : State) (f : State → State) : andThen (.next s) f = .next (f s) := rfl

/-- An update after an operation: a next state comes from a next state. -/
theorem andThen_eq_next {o : Out} {f : State → State} {t : State} (h : andThen o f = .next t) :
    ∃ u, o = .next u ∧ t = f u := by
  cases o with
  | next u => exact ⟨u, rfl, by simpa [andThen, eq_comm] using h⟩
  | fault r => simp [andThen] at h
  | refused r => simp [andThen] at h

/-! ## Bounded accesses -/

theorem loadBuf_inside {s : State} {a : Nat} (k : Byte → Out) (h : a < 47) :
    loadBuf s a k = k (s.bufAt a) := if_pos h

theorem loadBuf_outside {s : State} {a : Nat} (k : Byte → Out) (h : 47 ≤ a) :
    loadBuf s a k = .fault (.bufIndexOutside a) := if_neg (Nat.not_lt.mpr h)

theorem loadBuf_eq_next {s t : State} {a : Nat} {k : Byte → Out} (h : loadBuf s a k = .next t) :
    a < 47 ∧ k (s.bufAt a) = .next t := by
  by_cases ha : a < 47
  · exact ⟨ha, by rwa [loadBuf_inside k ha] at h⟩
  · rw [loadBuf_outside k (by omega)] at h; cases h

theorem loadTok_inside {s : State} {a : Nat} (k : Byte → Out) (h : a < 96) :
    loadTok s a k = k (s.tokAt a) := if_pos h

theorem loadTok_outside {s : State} {a : Nat} (k : Byte → Out) (h : 96 ≤ a) :
    loadTok s a k = .fault (.tokIndexOutside a) := if_neg (Nat.not_lt.mpr h)

theorem loadTok_eq_next {s t : State} {a : Nat} {k : Byte → Out} (h : loadTok s a k = .next t) :
    a < 96 ∧ k (s.tokAt a) = .next t := by
  by_cases ha : a < 96
  · exact ⟨ha, by rwa [loadTok_inside k ha] at h⟩
  · rw [loadTok_outside k (by omega)] at h; cases h

theorem storeBuf_inside {s : State} {a : Nat} {vs : List Byte} (h : a + vs.length ≤ 47) :
    storeBuf s a vs = .next (s.setBuf (s.mem.buf.writeBlock a vs)) := if_pos h

theorem storeBuf_outside {s : State} {a : Nat} {vs : List Byte} (h : 47 < a + vs.length) :
    storeBuf s a vs = .fault (.bufIndexOutside (a + vs.length - 1)) := if_neg (Nat.not_le.mpr h)

theorem storeBuf_eq_next {s t : State} {a : Nat} {vs : List Byte} (h : storeBuf s a vs = .next t) :
    a + vs.length ≤ 47 ∧ t = s.setBuf (s.mem.buf.writeBlock a vs) := by
  by_cases ha : a + vs.length ≤ 47
  · rw [storeBuf_inside ha] at h; exact ⟨ha, by cases h; rfl⟩
  · rw [storeBuf_outside (by omega)] at h; cases h

theorem storeTok_inside {s : State} {a : Nat} {vs : List Byte} (h : a + vs.length ≤ 96) :
    storeTok s a vs = .next (s.setTok (s.mem.tok.writeBlock a vs)) := if_pos h

theorem storeTok_outside {s : State} {a : Nat} {vs : List Byte} (h : 96 < a + vs.length) :
    storeTok s a vs = .fault (.tokIndexOutside (a + vs.length - 1)) := if_neg (Nat.not_le.mpr h)

theorem storeTok_eq_next {s t : State} {a : Nat} {vs : List Byte} (h : storeTok s a vs = .next t) :
    a + vs.length ≤ 96 ∧ t = s.setTok (s.mem.tok.writeBlock a vs) := by
  by_cases ha : a + vs.length ≤ 96
  · rw [storeTok_inside ha] at h; exact ⟨ha, by cases h; rfl⟩
  · rw [storeTok_outside (by omega)] at h; cases h

theorem storeName_inside {s : State} {a : Nat} (v : Byte) (h : a < 32) :
    storeName s a v = .next (s.setName (s.mem.name.write a v)) := if_pos h

theorem storeName_outside {s : State} {a : Nat} (v : Byte) (h : 32 ≤ a) :
    storeName s a v = .fault (.nameIndexOutside a) := if_neg (Nat.not_lt.mpr h)

theorem storeName_eq_next {s t : State} {a : Nat} {v : Byte} (h : storeName s a v = .next t) :
    a < 32 ∧ t = s.setName (s.mem.name.write a v) := by
  by_cases ha : a < 32
  · rw [storeName_inside v ha] at h; exact ⟨ha, by cases h; rfl⟩
  · rw [storeName_outside v (by omega)] at h; cases h

theorem copyName_inside {s : State} {a n : Nat} (hn : n ≤ 32) (h : a + n ≤ 47) :
    copyName s a n = .next (s.setBuf (s.mem.buf.writeBlock a (s.mem.name.readBlock 0 n))) := by
  rw [copyName, if_pos hn, storeBuf_inside (by simpa using h)]

theorem copyName_eq_next {s t : State} {a n : Nat} (h : copyName s a n = .next t) :
    n ≤ 32 ∧ a + n ≤ 47 ∧ t = s.setBuf (s.mem.buf.writeBlock a (s.mem.name.readBlock 0 n)) := by
  by_cases hn : n ≤ 32
  · rw [copyName, if_pos hn] at h
    have h' := storeBuf_eq_next h
    rw [Store.length_readBlock] at h'
    exact ⟨hn, h'⟩
  · rw [copyName, if_neg hn] at h; cases h

@[simp] theorem length_le32 (v : Word) : (le32 v).length = 4 := rfl

/-! ## The canonical form is kept -/

theorem setBuf_mem_wf {s : State} {m : Store} (hw : s.mem.wf = true) (hm : m.wf 47 = true) :
    (s.setBuf m).mem.wf = true := by
  rw [Memory.wf_iff] at hw ⊢; exact ⟨hw.1, hm, hw.2.2⟩

theorem setTok_mem_wf {s : State} {m : Store} (hw : s.mem.wf = true) (hm : m.wf 96 = true) :
    (s.setTok m).mem.wf = true := by
  rw [Memory.wf_iff] at hw ⊢; exact ⟨hw.1, hw.2.1, hm⟩

theorem setName_mem_wf {s : State} {m : Store} (hw : s.mem.wf = true) (hm : m.wf 32 = true) :
    (s.setName m).mem.wf = true := by
  rw [Memory.wf_iff] at hw ⊢; exact ⟨hm, hw.2⟩

theorem storeBuf_mem_wf {s t : State} {a : Nat} {vs : List Byte} (h : storeBuf s a vs = .next t)
    (hw : s.mem.wf = true) : t.mem.wf = true := by
  obtain ⟨ha, rfl⟩ := storeBuf_eq_next h
  exact setBuf_mem_wf hw (Store.wf_writeBlock vs ha ((Memory.wf_iff _).mp hw).2.1)

theorem storeTok_mem_wf {s t : State} {a : Nat} {vs : List Byte} (h : storeTok s a vs = .next t)
    (hw : s.mem.wf = true) : t.mem.wf = true := by
  obtain ⟨ha, rfl⟩ := storeTok_eq_next h
  exact setTok_mem_wf hw (Store.wf_writeBlock vs ha ((Memory.wf_iff _).mp hw).2.2)

theorem storeName_mem_wf {s t : State} {a : Nat} {v : Byte} (h : storeName s a v = .next t)
    (hw : s.mem.wf = true) : t.mem.wf = true := by
  obtain ⟨ha, rfl⟩ := storeName_eq_next h
  exact setName_mem_wf hw (Store.wf_write v ha ((Memory.wf_iff _).mp hw).1)

theorem copyName_mem_wf {s t : State} {a n : Nat} (h : copyName s a n = .next t)
    (hw : s.mem.wf = true) : t.mem.wf = true := by
  obtain ⟨_, ha, rfl⟩ := copyName_eq_next h
  exact setBuf_mem_wf hw
    (Store.wf_writeBlock _ (by simpa using ha) ((Memory.wf_iff _).mp hw).2.1)

/-! ## Sequencing, the exception, the host's side -/

section nextUop
variable (s : State)
@[simp] theorem nextUop_mem : (nextUop s).mem = s.mem := rfl
@[simp] theorem nextUop_nlen : (nextUop s).nlen = s.nlen := rfl
@[simp] theorem nextUop_h : (nextUop s).h = s.h := rfl
@[simp] theorem nextUop_denom : (nextUop s).denom = s.denom := rfl
@[simp] theorem nextUop_q : (nextUop s).q = s.q := rfl
@[simp] theorem nextUop_i : (nextUop s).i = 0 := rfl
@[simp] theorem nextUop_upc : (nextUop s).upc = s.upc + 1 := rfl
@[simp] theorem nextUop_tlen : (nextUop s).tlen = s.tlen := rfl
@[simp] theorem nextUop_response : (nextUop s).response = s.response := rfl
@[simp] theorem nextUop_turns : (nextUop s).turns = s.turns := rfl
@[simp] theorem nextUop_n : (nextUop s).n = s.n := rfl
@[simp] theorem nextUop_len : (nextUop s).len = s.len := rfl
@[simp] theorem nextUop_tr : (nextUop s).tr = s.tr := rfl
@[simp] theorem nextUop_bufAt (a : Nat) : (nextUop s).bufAt a = s.bufAt a := rfl
@[simp] theorem nextUop_nameAt (a : Nat) : (nextUop s).nameAt a = s.nameAt a := rfl
@[simp] theorem nextUop_tokAt (a : Nat) : (nextUop s).tokAt a = s.tokAt a := rfl
end nextUop

/-- The end of a loop UOP: one position on, or `next` after the last position. -/
theorem loopUop_cases (s : State) :
    (s.pos + 1 < s.len ∧ loopUop s = s.setI (s.i + 1)) ∨ (s.len ≤ s.pos + 1 ∧ loopUop s = nextUop s) := by
  by_cases h : s.pos + 1 < s.len
  · exact .inl ⟨h, if_pos h⟩
  · exact .inr ⟨by omega, if_neg h⟩

section loopUop
variable (s : State)
@[simp] theorem loopUop_mem : (loopUop s).mem = s.mem := by
  rcases loopUop_cases s with ⟨_, h⟩ | ⟨_, h⟩ <;> rw [h] <;> rfl
@[simp] theorem loopUop_nlen : (loopUop s).nlen = s.nlen := by
  rcases loopUop_cases s with ⟨_, h⟩ | ⟨_, h⟩ <;> rw [h] <;> rfl
@[simp] theorem loopUop_h : (loopUop s).h = s.h := by
  rcases loopUop_cases s with ⟨_, h⟩ | ⟨_, h⟩ <;> rw [h] <;> rfl
@[simp] theorem loopUop_denom : (loopUop s).denom = s.denom := by
  rcases loopUop_cases s with ⟨_, h⟩ | ⟨_, h⟩ <;> rw [h] <;> rfl
@[simp] theorem loopUop_q : (loopUop s).q = s.q := by
  rcases loopUop_cases s with ⟨_, h⟩ | ⟨_, h⟩ <;> rw [h] <;> rfl
@[simp] theorem loopUop_tlen : (loopUop s).tlen = s.tlen := by
  rcases loopUop_cases s with ⟨_, h⟩ | ⟨_, h⟩ <;> rw [h] <;> rfl
@[simp] theorem loopUop_response : (loopUop s).response = s.response := by
  rcases loopUop_cases s with ⟨_, h⟩ | ⟨_, h⟩ <;> rw [h] <;> rfl
@[simp] theorem loopUop_turns : (loopUop s).turns = s.turns := by
  rcases loopUop_cases s with ⟨_, h⟩ | ⟨_, h⟩ <;> rw [h] <;> rfl
@[simp] theorem loopUop_bufAt (a : Nat) : (loopUop s).bufAt a = s.bufAt a := by simp [State.bufAt]
@[simp] theorem loopUop_nameAt (a : Nat) : (loopUop s).nameAt a = s.nameAt a := by simp [State.nameAt]
@[simp] theorem loopUop_tokAt (a : Nat) : (loopUop s).tokAt a = s.tokAt a := by simp [State.tokAt]
end loopUop

section raiseInvalidName
variable (s : State)
@[simp] theorem raiseInvalidName_mem : (raiseInvalidName s).mem = s.mem := rfl
@[simp] theorem raiseInvalidName_nlen : (raiseInvalidName s).nlen = s.nlen := rfl
@[simp] theorem raiseInvalidName_h : (raiseInvalidName s).h = s.h := rfl
@[simp] theorem raiseInvalidName_denom : (raiseInvalidName s).denom = 0 := rfl
@[simp] theorem raiseInvalidName_q : (raiseInvalidName s).q = s.q := rfl
@[simp] theorem raiseInvalidName_i : (raiseInvalidName s).i = 0 := rfl
@[simp] theorem raiseInvalidName_upc : (raiseInvalidName s).upc = 20 := rfl
@[simp] theorem raiseInvalidName_tlen : (raiseInvalidName s).tlen = s.tlen := rfl
@[simp] theorem raiseInvalidName_response : (raiseInvalidName s).response = s.response := rfl
@[simp] theorem raiseInvalidName_turns : (raiseInvalidName s).turns = s.turns := rfl
end raiseInvalidName

section respond
variable (s : State) (v : PortWord)
@[simp] theorem respond_mem : (respond s v).mem = s.mem := rfl
@[simp] theorem respond_nlen : (respond s v).nlen = s.nlen := rfl
@[simp] theorem respond_h : (respond s v).h = s.h := rfl
@[simp] theorem respond_denom : (respond s v).denom = s.denom := rfl
@[simp] theorem respond_q : (respond s v).q = s.q := rfl
@[simp] theorem respond_i : (respond s v).i = s.i := rfl
@[simp] theorem respond_upc : (respond s v).upc = s.upc := rfl
@[simp] theorem respond_tlen : (respond s v).tlen = s.tlen := rfl
@[simp] theorem respond_response : (respond s v).response = v := rfl
@[simp] theorem respond_turns : (respond s v).turns = s.turns := rfl
end respond

section resetElements
variable (s : State)
@[simp] theorem resetElements_mem : (resetElements s).mem = State.reset.mem := rfl
@[simp] theorem resetElements_nlen : (resetElements s).nlen = 0 := rfl
@[simp] theorem resetElements_h : (resetElements s).h = 0 := rfl
@[simp] theorem resetElements_denom : (resetElements s).denom = 0 := rfl
@[simp] theorem resetElements_q : (resetElements s).q = 0 := rfl
@[simp] theorem resetElements_i : (resetElements s).i = 0 := rfl
@[simp] theorem resetElements_upc : (resetElements s).upc = 0 := rfl
@[simp] theorem resetElements_tlen : (resetElements s).tlen = 0 := rfl
@[simp] theorem resetElements_response : (resetElements s).response = s.response := rfl
@[simp] theorem resetElements_turns : (resetElements s).turns = s.turns := rfl
end resetElements

end Sys2Proof.Machine
end

