-- ==== Sys2Proof/Laws/PerInstr.lean ====
section
/-! SUPPORT. Statements made once per operation of Instr: the family RoundTrip, an operation's encoding
decodes to it. -/

namespace Sys2Proof

section cmdWord
variable (code : BitVec 3) (idx : BitVec 5) (low : Byte)

/-- The bits of a command word, field by field. -/
theorem cmdWord_getLsbD (j : Nat) : (cmdWord code idx low).getLsbD j =
    if j < 8 then low.getLsbD j else if j < 13 then idx.getLsbD (j - 8) else code.getLsbD (j - 13) := by
  unfold cmdWord
  rw [BitVec.getLsbD_append, BitVec.getLsbD_append]
  by_cases h : j < 8
  · simp [h]
  · by_cases h' : j < 13
    · simp [h, h', show j - 8 < 5 by omega]
    · simp [h, h', show ¬ j - 8 < 5 by omega, show j - 8 - 5 = j - 13 by omega]

theorem cmdWord_code : (cmdWord code idx low).extractLsb' 13 3 = code := by
  ext k hk
  simp [BitVec.getElem_extractLsb', cmdWord_getLsbD, BitVec.getLsbD_eq_getElem hk,
    show ¬ 13 + k < 8 by omega]

theorem cmdWord_idx : (cmdWord code idx low).extractLsb' 8 5 = idx := by
  ext k hk
  simp [BitVec.getElem_extractLsb', cmdWord_getLsbD, BitVec.getLsbD_eq_getElem hk,
    show 8 + k < 13 by omega]

theorem cmdWord_low : (cmdWord code idx low).extractLsb' 0 8 = low := by
  ext k hk
  simp [BitVec.getElem_extractLsb', cmdWord_getLsbD, show k < 8 by omega]

end cmdWord

end Sys2Proof

namespace Sys2Proof.Laws.RoundTrip

/-- Decoding the encoding of a well-formed operation gives it back. -/
def Statement (i : Instr) : Prop := i.wellFormed = true → decode (encode i) = .ok i

theorem asmClr : Statement .asmClr := fun _ => rfl
theorem asmTag : Statement .asmTag := fun _ => rfl
theorem asmLic : Statement .asmLic := fun _ => rfl
theorem asmBody : Statement .asmBody := fun _ => rfl
theorem trlDen : Statement .trlDen := fun _ => rfl
theorem trlQ : Statement .trlQ := fun _ => rfl
theorem trlT1 : Statement .trlT1 := fun _ => rfl
theorem trlT2 : Statement .trlT2 := fun _ => rfl
theorem trlT3 : Statement .trlT3 := fun _ => rfl
theorem trlT4 : Statement .trlT4 := fun _ => rfl
theorem trlT5 : Statement .trlT5 := fun _ => rfl
theorem chkInit : Statement .chkInit := fun _ => rfl
theorem chkStep : Statement .chkStep := fun _ => rfl
theorem chkWr : Statement .chkWr := fun _ => rfl
theorem obfStep : Statement .obfStep := fun _ => rfl
theorem fmtOpen : Statement .fmtOpen := fun _ => rfl
theorem fmtByte : Statement .fmtByte := fun _ => rfl
theorem fmtClose : Statement .fmtClose := fun _ => rfl
theorem nop : Statement .nop := fun _ => rfl

theorem ldlen (len : Nat) : Statement (.ldlen len) := by
  have h : ∀ n : Fin 64, decode (encode (.ldlen n.val)) = .ok (.ldlen n.val) := by decide
  intro hw
  have hl : len < 64 := by simpa [Instr.wellFormed, lenFits] using hw
  exact h ⟨len, hl⟩

theorem ldname (idx : Nat) (data : Byte) : Statement (.ldname idx data) := by
  intro hw
  have hi : idx < 32 := by simpa [Instr.wellFormed, nameIdxFits] using hw
  have hc : cmdField (cmdWord 0b010 (BitVec.ofNat 5 idx) data) 13 3 = 2 := by
    rw [cmdField, cmdWord_code]; rfl
  have hx : cmdField (cmdWord 0b010 (BitVec.ofNat 5 idx) data) 8 5 = idx := by
    rw [cmdField, cmdWord_idx, BitVec.toNat_ofNat]; omega
  show decodeCommand (cmdWord 0b010 (BitVec.ofNat 5 idx) data) = _
  rw [decodeCommand, hc, hx, cmdWord_low]
  rfl

theorem start : Statement .start := fun _ => rfl

theorem rdtok (tidx : Nat) : Statement (.rdtok tidx) := by
  have h : ∀ n : Fin 128, decode (encode (.rdtok n.val)) = .ok (.rdtok n.val) := by decide
  intro hw
  have hl : tidx < 128 := by simpa [Instr.wellFormed, tokIdxFits] using hw
  exact h ⟨tidx, hl⟩

theorem rdstat : Statement .rdstat := fun _ => rfl
theorem reset : Statement .reset := fun _ => rfl

end Sys2Proof.Laws.RoundTrip
end

