-- ==== Sys2Proof/Laws/Step.lean ====
section
/-! SUPPORT. What one operation and one step can do, said once: one lemma per micro-operation and command
("if it answers a next state, then this one"), and the step by the kind of its turn. -/

namespace Sys2Proof.Machine

/-! ## Runs of several steps -/

@[simp] theorem run_zero (s : State) : run 0 s = .next s := rfl

theorem run_succ (k : Nat) (s : State) :
    run (k + 1) s = match step s with
      | .next t => run k t
      | .fault r => .fault r
      | .refused r => .refused r := by
  refine (Host.Core.run.eq_2 Sys2Proof.core s k).trans ?_
  cases h : step s <;> rw [show Sys2Proof.core.step s = _ from h] <;> rfl

theorem run_succ_next {k : Nat} {s t : State} (h : step s = .next t) : run (k + 1) s = run k t := by
  rw [run_succ, h]

/-- A run in two parts. -/
theorem run_add {j k : Nat} {s t : State} (h : run j s = .next t) : run (j + k) s = run k t := by
  induction j generalizing s with
  | zero => cases h; rw [Nat.zero_add]
  | succ j ih =>
    rw [run_succ] at h
    rw [show j + 1 + k = (j + k) + 1 by omega, run_succ]
    cases hs : step s with
    | next u => rw [hs] at h; exact ih h
    | fault r => rw [hs] at h; cases h
    | refused r => rw [hs] at h; cases h

section exec
variable {s t : State}

theorem execAsmClr_next (h : execAsmClr s = .next t) : t = nextUop (s.setBuf Store.zeroed) := by
  cases h; rfl

theorem execAsmTag_next (h : execAsmTag s = .next t) :
    t = nextUop (s.setBuf (s.mem.buf.writeBlock 0 [0x70])) := by
  obtain ⟨u, hu, rfl⟩ := andThen_eq_next h
  rw [(storeBuf_eq_next hu).2]; rfl

theorem execAsmLic_next (h : execAsmLic s = .next t) :
    t = nextUop (s.setBuf (s.mem.buf.writeBlock 1 [0xFF, 0x39, 0x65, 0x03])) := by
  obtain ⟨u, hu, rfl⟩ := andThen_eq_next h
  rw [(storeBuf_eq_next hu).2]; rfl

theorem execAsmBody_next (h : execAsmBody s = .next t) :
    s.n ≤ 32 ∧ t = nextUop (s.setBuf (s.mem.buf.writeBlock 9 s.nameBytes)) := by
  obtain ⟨u, hu, rfl⟩ := andThen_eq_next h
  obtain ⟨hn, _, rfl⟩ := copyName_eq_next hu
  exact ⟨hn, rfl⟩

theorem execTrlDen_next (h : execTrlDen s = .next t) :
    (divisor s.b0 s.b3 = 0 ∧ t = raiseInvalidName s) ∨
    (divisor s.b0 s.b3 ≠ 0 ∧ t = nextUop (s.setDenom (divisor s.b0 s.b3))) := by
  simp only [execTrlDen] at h
  split at h
  · exact .inl ⟨‹_›, by cases h; rfl⟩
  · exact .inr ⟨‹_›, by cases h; rfl⟩

theorem execTrlQ_next (h : execTrlQ s = .next t) :
    t = nextUop (s.setQ (Config.qfn s.b0 s.b1 s.denom)) := by cases h; rfl

/-- Every write of a trailer byte. -/
theorem writeTrailer_next {j : Nat} {v : Byte} (h : writeTrailer s j v = .next t) :
    s.tr + j < 47 ∧ t = nextUop (s.setBuf (s.mem.buf.write (s.tr + j) v)) := by
  obtain ⟨u, hu, rfl⟩ := andThen_eq_next h
  obtain ⟨ha, rfl⟩ := storeBuf_eq_next hu
  exact ⟨by simpa using ha, rfl⟩

theorem writeTrailer_inside {j : Nat} (v : Byte) (h : s.tr + j < 47) :
    writeTrailer s j v = .next (nextUop (s.setBuf (s.mem.buf.write (s.tr + j) v))) := by
  rw [writeTrailer, memWrite1, storeBuf_inside (by simpa using h)]; rfl

theorem execChkInit_next (h : execChkInit s = .next t) : t = nextUop (s.setH 0) := by cases h; rfl

theorem execChkStep_next (h : execChkStep s = .next t) :
    s.pos < 47 ∧ t = loopUop (s.setH (chkFold s.h (s.bufAt s.pos))) := by
  obtain ⟨ha, hk⟩ := loadBuf_eq_next h
  exact ⟨ha, by cases hk; rfl⟩

theorem execChkWr_next (h : execChkWr s = .next t) :
    t = nextUop (s.setBuf (s.mem.buf.writeBlock 5 (le32 s.h))) := by
  obtain ⟨u, hu, rfl⟩ := andThen_eq_next h
  rw [(storeBuf_eq_next hu).2]

theorem execObfStep_next (h : execObfStep s = .next t) :
    s.pos < 47 ∧ t = loopUop (s.setBuf (s.mem.buf.write s.pos (obf s.pos (s.bufAt s.pos)))) := by
  obtain ⟨ha, hk⟩ := loadBuf_eq_next h
  obtain ⟨u, hu, rfl⟩ := andThen_eq_next hk
  exact ⟨ha, by rw [(storeBuf_eq_next hu).2]; rfl⟩

theorem execFmtOpen_next (h : execFmtOpen s = .next t) :
    t = nextUop ((s.setTok (s.mem.tok.write 0 0x3C)).setTlen 1) := by
  obtain ⟨u, hu, rfl⟩ := andThen_eq_next h
  rw [(storeTok_eq_next hu).2]; rfl

theorem execFmtByte_next (h : execFmtByte s = .next t) :
    s.pos < 47 ∧
    t = loopUop ((s.setTok (s.mem.tok.writeBlock (1 + 2 * s.pos) (hexPair (s.bufAt s.pos)))).setTlen
      (BitVec.ofNat 7 (3 + 2 * s.pos))) := by
  obtain ⟨ha, hk⟩ := loadBuf_eq_next h
  obtain ⟨u, hu, rfl⟩ := andThen_eq_next hk
  exact ⟨ha, by rw [(storeTok_eq_next hu).2]⟩

theorem execFmtClose_next (h : execFmtClose s = .next t) :
    2 * s.len + 1 < 96 ∧
    t = nextUop ((s.setTok (s.mem.tok.write (2 * s.len + 1) 0x3E)).setTlen
      (BitVec.ofNat 7 (2 * s.len + 2))) := by
  obtain ⟨u, hu, rfl⟩ := andThen_eq_next h
  obtain ⟨ha, rfl⟩ := storeTok_eq_next hu
  exact ⟨by simpa using ha, rfl⟩

theorem execLdlen_next {len : Nat} (h : execLdlen len s = .next t) :
    (s.busy = true ∧ t = respond s 0) ∨
    (s.busy = false ∧ t = respond (s.setNlen (BitVec.ofNat 6 len)) 0) := by
  cases hb : s.busy <;> simp only [execLdlen, hb] at h <;> cases h
  · exact .inr ⟨rfl, rfl⟩
  · exact .inl ⟨rfl, rfl⟩

theorem execLdname_next {idx : Nat} {data : Byte} (h : execLdname idx data s = .next t) :
    (s.busy = true ∧ t = respond s 0) ∨
    (s.busy = false ∧ idx < 32 ∧ t = respond (s.setName (s.mem.name.write idx data)) 0) := by
  cases hb : s.busy <;> simp only [execLdname, hb] at h
  · obtain ⟨u, hu, rfl⟩ := andThen_eq_next h
    obtain ⟨hi, rfl⟩ := storeName_eq_next hu
    exact .inr ⟨rfl, hi, rfl⟩
  · cases h; exact .inl ⟨rfl, rfl⟩

theorem execStart_next (h : execStart s = .next t) :
    (s.busy = true ∧ t = respond s 0) ∨
    (s.busy = false ∧ s.lenOk = true ∧ t = respond (beginRun s) 0) := by
  cases hb : s.busy <;> cases hl : s.lenOk <;> simp [execStart, hb, hl] at h
  · exact .inr ⟨rfl, rfl, h.symm⟩
  · exact .inl ⟨rfl, h.symm⟩
  · exact .inl ⟨rfl, h.symm⟩

theorem execRdtok_next {tidx : Nat} (h : execRdtok tidx s = .next t) :
    (s.isDone = true ∧ tidx < s.tlen.toNat ∧ tidx < 96 ∧
      t = respond s ((s.tokAt tidx).setWidth 16)) ∨
    (¬ (s.isDone = true ∧ tidx < s.tlen.toNat) ∧ t = respond s 0) := by
  by_cases hc : s.isDone = true ∧ tidx < s.tlen.toNat
  · rw [execRdtok, if_pos (by simp [hc])] at h
    obtain ⟨ha, hk⟩ := loadTok_eq_next h
    exact .inl ⟨hc.1, hc.2, ha, by cases hk; rfl⟩
  · rw [execRdtok, if_neg (by simpa using hc)] at h
    exact .inr ⟨hc, by cases h; rfl⟩

/-- No operation touches the schedule of moves. -/
theorem exec_turns {i : Instr} (h : exec i s = .next t) : t.turns = s.turns := by
  cases i with
  | asmClr => rw [execAsmClr_next h]; rfl
  | asmTag => rw [execAsmTag_next h]; rfl
  | asmLic => rw [execAsmLic_next h]; rfl
  | asmBody => rw [(execAsmBody_next h).2]; rfl
  | trlDen => rcases execTrlDen_next h with ⟨_, rfl⟩ | ⟨_, rfl⟩ <;> rfl
  | trlQ => rw [execTrlQ_next h]; rfl
  | trlT1 => rw [(writeTrailer_next h).2]; rfl
  | trlT2 => rw [(writeTrailer_next h).2]; rfl
  | trlT3 => rw [(writeTrailer_next h).2]; rfl
  | trlT4 => rw [(writeTrailer_next h).2]; rfl
  | trlT5 => rw [(writeTrailer_next h).2]; rfl
  | chkInit => rw [execChkInit_next h]; rfl
  | chkStep => rw [(execChkStep_next h).2]; simp
  | chkWr => rw [execChkWr_next h]; rfl
  | obfStep => rw [(execObfStep_next h).2]; simp
  | fmtOpen => rw [execFmtOpen_next h]; rfl
  | fmtByte => rw [(execFmtByte_next h).2]; simp
  | fmtClose => rw [(execFmtClose_next h).2]; rfl
  | nop => cases h; rfl
  | ldlen len => rcases execLdlen_next h with ⟨_, rfl⟩ | ⟨_, rfl⟩ <;> rfl
  | ldname idx data => rcases execLdname_next h with ⟨_, rfl⟩ | ⟨_, _, rfl⟩ <;> rfl
  | start => rcases execStart_next h with ⟨_, rfl⟩ | ⟨_, _, rfl⟩ <;> rfl
  | rdtok tidx => rcases execRdtok_next h with ⟨_, _, _, rfl⟩ | ⟨_, rfl⟩ <;> rfl
  | rdstat => cases h; rfl
  | reset => cases h; rfl

end exec

/-! ## The step, by the kind of its turn -/

section step
variable {s : State} {ts : List Turn}

theorem step_host {w : PortWord} {i : Instr} (ht : s.turns = .host w :: ts)
    (hd : decodeCommand w = .ok i) : step s = exec i (s.setTurns ts) := by
  simp [step, State.select, State.nextTurn, State.takeTurn, ht, selectCommand, hd]

theorem step_reserved {w : PortWord} {e : DecodeError} (ht : s.turns = .host w :: ts)
    (hd : decodeCommand w = .error e) : step s = execReserved (s.setTurns ts) := by
  simp [step, State.select, State.nextTurn, State.takeTurn, ht, selectCommand, hd]

theorem step_sequencer {i : Instr} (ht : s.turns = .sequencer :: ts) (hd : decodeUop s.upc = .ok i) :
    step s = exec i (s.setTurns ts) := by
  simp [step, State.select, State.nextTurn, State.takeTurn, ht, State.selectUop, hd]

theorem step_alone {i : Instr} (ht : s.turns = []) (hd : decodeUop s.upc = .ok i) :
    step s = exec i s := by
  have hs : s.setTurns [] = s := by cases s; simp_all [State.setTurns]
  simp [step, State.select, State.nextTurn, State.takeTurn, ht, State.selectUop, hd, hs]

theorem step_noStep {e : DecodeError} (ht : s.turns = .sequencer :: ts)
    (hd : decodeUop s.upc = .error e) : step s = .next (s.setTurns ts) := by
  simp [step, State.select, State.nextTurn, State.takeTurn, ht, State.selectUop, hd]

theorem step_idle {e : DecodeError} (ht : s.turns = []) (hd : decodeUop s.upc = .error e) :
    step s = .next s := by
  have hs : s.setTurns [] = s := by cases s; simp_all [State.setTurns]
  simp [step, State.select, State.nextTurn, State.takeTurn, ht, State.selectUop, hd, hs]

theorem step_resetPin (ht : s.turns = .resetPin :: ts) :
    step s = execResetPin (s.setTurns ts) := by
  simp [step, State.select, State.nextTurn, State.takeTurn, ht]

/-- A placed UOP code is what the next step selects. -/
theorem select_withFetchWord_uop (s : State) {nbits : Nat} (w : Nat) (h : nbits ≤ 8) :
    (s.withFetchWord nbits w).select =
      ((s.setUpc (BitVec.ofNat 5 w)).setTurns (.sequencer :: s.turns)).selectUop := by
  simp [State.withFetchWord, State.placeWord, h, State.select, State.nextTurn]

/-- A placed command word is what the next step selects. -/
theorem select_withFetchWord_command (s : State) {nbits : Nat} (w : Nat) (h : 8 < nbits) :
    (s.withFetchWord nbits w).select = selectCommand (BitVec.ofNat 16 w) := by
  simp [State.withFetchWord, State.placeWord, Nat.not_le.mpr h, State.select, State.nextTurn]

end step

end Sys2Proof.Machine
end

