-- ==== Sys2Proof/Tests/Slice0.lean ====
section
/-! SUPPORT. The model's own tests: words written out from spec/30_encoding.md, one-step values from
spec/95_test_vectors.md, ill-formed operations, and witnesses for the hypotheses of the obligations. -/

namespace Sys2Proof.Tests

open Sys2Proof Sys2Proof.Machine

/-! ## Helpers -/

/-- The next state, when there is one. -/
def nextOf : Out → Option State
  | .next t => some t
  | .fault _ => none
  | .refused _ => none

/-- A view of the next state. -/
def after {α : Type} (o : Out) (f : State → α) : Option α := (nextOf o).map f

/-- Reset with a name loaded. -/
def loaded (name : List Byte) : State :=
  (State.reset.setName (Store.zeroed.writeBlock 0 name)).setNlen (BitVec.ofNat 6 name.length)

/-- A state at `UPC = u`, `I = i` with the given bytes in `BUF` from index 0. -/
def at_ (s : State) (u i : Nat) (bs : List Byte) : State :=
  ((s.setUpc (BitVec.ofNat 5 u)).setI (BitVec.ofNat 6 i)).setBuf (Store.zeroed.writeBlock 0 bs)

/-- "Alice" and "Akira Kurosawa" (spec/95_test_vectors.md V2, V1), and the name of V4. -/
def alice : List Byte := [0x41, 0x6c, 0x69, 0x63, 0x65]
def akira : List Byte := [0x41, 0x6b, 0x69, 0x72, 0x61, 0x20, 0x4b, 0x75, 0x72, 0x6f, 0x73, 0x61, 0x77, 0x61]
def abcbe : List Byte := [0x41, 0x42, 0x43, 0x42, 0x45]

/-- V1 after ASM.BODY: `BUF` as spec/95_test_vectors.md prints it. -/
def akiraBuf : List Byte :=
  [0x70, 0xff, 0x39, 0x65, 0x03, 0, 0, 0, 0] ++ akira ++ [0, 0, 0, 0, 0, 0]

def akiraAt (u : Nat) : State := at_ (loaded akira) u 0 akiraBuf

/-- A state that is BUSY, with a legal length. -/
def busyState : State := at_ (loaded alice) 13 3 []

/-- A finished run, as far as the host sees it. -/
def doneState : State := ((State.reset.setUpc 19).setTlen 96).setTok (Store.zeroed.writeBlock 0 [0x3C, 0x62])

/-! ## Well-formedness: one ill-formed term for each check -/

theorem test_lenFits_refuses_64 : (Instr.ldlen 64).wellFormed = false := by decide
theorem test_nameIdxFits_refuses_32 : (Instr.ldname 32 0).wellFormed = false := by decide
theorem test_tokIdxFits_refuses_128 : (Instr.rdtok 128).wellFormed = false := by decide
theorem test_wellFormed_bounds : (Instr.ldlen 63).wellFormed && (Instr.ldname 31 0xFF).wellFormed &&
    (Instr.rdtok 127).wellFormed = true := by decide

/-! ## Decoding, from the maps of R55 and R57 bit by bit -/

theorem test_decode_uop_codes : (List.range 32).map (fun c => (decodeUop (BitVec.ofNat 5 c)).toOption) =
    [none, some .asmClr, some .asmTag, some .asmLic, some .asmBody, some .trlDen, some .trlQ,
     some .trlT1, some .trlT2, some .trlT3, some .trlT4, some .trlT5, some .chkInit, some .chkStep,
     some .chkWr, some .obfStep, some .fmtOpen, some .fmtByte, some .fmtClose] ++
    List.replicate 13 none := by decide
theorem test_decode_nop : decodeCommand 0b0000000000000000 = .ok .nop := by decide
theorem test_decode_ldlen : decodeCommand 0b0010000000001110 = .ok (.ldlen 14) := by decide
theorem test_decode_ldname : decodeCommand 0b0101111100110101 = .ok (.ldname 31 0x35) := by decide
theorem test_decode_start : decodeCommand 0b0110000000000000 = .ok .start := by decide
theorem test_decode_rdtok : decodeCommand 0b1000000001111111 = .ok (.rdtok 127) := by decide
theorem test_decode_rdstat : decodeCommand 0b1010000000000000 = .ok .rdstat := by decide
theorem test_decode_reset : decodeCommand 0b1110000000000000 = .ok .reset := by decide
theorem test_decode_reserved :
    [0x2040, 0x2105, 0x6001, 0x8080, 0xC000, 0xC123, 0xDFFF, 0xE001, 0x0001, 0xB000].all
      (fun w => (decodeCommand (BitVec.ofNat 16 w)).toOption == none) = true := by decide
theorem test_decodeTableWord : decodeTableWord 8 0x0D = some .chkStep ∧
    decodeTableWord 16 0x200E = some (.ldlen 14) ∧ decodeTableWord 8 0x15 = none := by decide

/-! ## Stage 1 (spec/95_test_vectors.md section 2.1) -/

theorem test_asmClr : after (exec .asmClr (akiraAt 1)) (fun t => (t.keyBuffer, t.upc)) =
    some (List.replicate 29 0, 2) := by decide
theorem test_asmTag : after (exec .asmTag (at_ (loaded alice) 2 0 [])) (fun t => t.bufAt 0) =
    some 0x70 := by decide
theorem test_asmLic : after (exec .asmLic (at_ (loaded alice) 3 0 []))
    (fun t => t.mem.buf.readBlock 0 6) = some [0, 0xff, 0x39, 0x65, 0x03, 0] := by decide
theorem test_asmBody_leaves_stale : after (exec .asmBody (at_ ((loaded (alice ++ [0x7a])).setNlen 5) 4 0 []))
    (fun t => t.mem.buf.readBlock 9 6) = some (alice ++ [0]) := by decide
theorem test_assemble_alice : assemble alice =
    [0x70, 0xff, 0x39, 0x65, 0x03, 0, 0, 0, 0, 0x41, 0x6c, 0x69, 0x63, 0x65, 0, 0, 0, 0, 0, 0] := by
  decide

/-! ## Stage 2 (sections 2.2 to 2.5) -/

theorem test_trlDen : after (exec .trlDen (akiraAt 5)) (fun t => (t.denom, t.upc)) =
    some (0xD0, 6) := by decide
theorem test_trlDen_raises_by_wraparound :
    after (exec .trlDen (at_ (loaded alice) 5 0 (assemble [0xff, 0x10, 0x20, 0, 0x30])))
      (fun t => (t.denom, t.upc, t.i)) = some (0, 20, 0) := by decide
theorem test_trlQ_both_instances :
    (trlQWith qfnRem ((akiraAt 6).setDenom 0xD0)).q = 0x2B ∧
    (trlQWith qfnDoc ((akiraAt 6).setDenom 0xD0)).q = 0x00 := by decide
theorem test_trlT1 : after (exec .trlT1 (akiraAt 7)) (fun t => t.bufAt 24) = some 0x70 := by decide
theorem test_trlT2 : after (exec .trlT2 ((akiraAt 8).setQ 0x2B)) (fun t => t.bufAt 25) =
    some 0xAB := by decide
theorem test_trlT3 : after (exec .trlT3 (akiraAt 9)) (fun t => t.bufAt 26) = some 0xC5 := by decide
theorem test_trlT4 : after (exec .trlT4 (akiraAt 10)) (fun t => t.bufAt 27) = some 0x72 := by decide
theorem test_trlT5 : after (exec .trlT5 (akiraAt 11)) (fun t => t.bufAt 28) = some 0x90 := by decide
theorem test_trailer_table :
    trailer1 0x80 0xff 0x00 0x7f 0xc3 = 0xD3 ∧ trailer3 0x61 0x62 0x63 0x61 0x64 = 0x72 ∧
    trailer5 0x10 0x10 0x01 0x0f 0x02 = 0x9E ∧ trailer2 0x08 0x6F = 0x98 := by decide
theorem test_trailer4Dead : trailer4Dead 0x41 0x6b 0x69 0x72 0x61 = 0xF7 ∧
    trailer4Dead 0x41 0x6c 0x69 0x63 0x65 = 0xFF ∧ trailer4Dead 0x10 0x10 0x01 0x0f 0x02 = 0xF7 := by
  decide

/-! ## Stage 3 (section 2.6) -/

theorem test_chkInit : after (exec .chkInit ((akiraAt 12).setH 0x68717912)) (fun t => t.h) =
    some 0 := by decide
theorem test_chkStep : after (exec .chkStep ((at_ (loaded akira) 13 4 akiraBuf).setH 0x35531D22))
    (fun t => (t.h, t.upc, t.i)) = some (0xAA9C1C5D, 13, 5) := by decide
theorem test_chkStep_last : after (exec .chkStep (at_ (loaded alice) 13 19 []))
    (fun t => (t.upc, t.i)) = some (14, 0) := by decide
theorem test_chkFold_rows : chkFold 0x10000000 0 = 0x7FFFFFE0 ∧ chkFold 0xFFFFFFFF 0 = 0xFFFFFFF7 ∧
    chkFold 0x1FFFFFFF 0xFF = 0x01100FD7 ∧ chkFoldWith .logical 0x10000000 0 = 0x80000020 := by decide
theorem test_checksum : checksum [0x70, 0xff, 0x39, 0x65, 0x03] = 0xAA9C1C5D ∧
    checksum [0x80, 0x80, 0x80] = 0x26F13491 := by decide
theorem test_chkWr : after (exec .chkWr ((akiraAt 14).setH 0x68717912))
    (fun t => t.mem.buf.readBlock 4 6) = some [0x03, 0x12, 0x79, 0x71, 0x68, 0x41] := by decide

/-! ## Stage 4 (section 2.7) -/

theorem test_obfStep : after (exec .obfStep (akiraAt 15)) (fun t => (t.bufAt 0, t.bufAt 1, t.i)) =
    some (0xB1, 0xFF, 1) := by decide
theorem test_obf_rows : obf 34 0x5A = 0xE9 ∧ obf 46 0x97 = 0xE2 ∧ obf 17 0xED = 0x00 ∧
    deobf 33 0xA4 = 0xFF := by decide
theorem test_rev8 : rev8 0x12 = 0x48 ∧ rev8 0x8D = 0xB1 ∧ rev8 0x0F = 0xF0 := by decide

/-! ## Stage 5 (section 2.8) -/

theorem test_fmtOpen : after (exec .fmtOpen (akiraAt 16)) (fun t => (t.tokAt 0, t.tlen, t.upc)) =
    some (0x3C, 1, 17) := by decide
theorem test_fmtByte : after (exec .fmtByte (at_ (loaded akira) 17 13 (List.replicate 13 0 ++ [0x09])))
    (fun t => (t.tokAt 27, t.tokAt 28, t.tlen)) = some (0x30, 0x39, 29) := by decide
theorem test_fmtClose : after (exec .fmtClose (akiraAt 18)) (fun t => (t.tokAt 59, t.tlen, t.upc)) =
    some (0x3E, 60, 19) := by decide
theorem test_format : format [0xb1, 0xa0] = [0x3c, 0x62, 0x31, 0x61, 0x30, 0x3e] := by decide

/-! ## The host commands (section 2.9) -/

theorem test_nop : after (exec .nop busyState) (fun t => (t.upc, t.response)) = some (13, 0) := by decide
theorem test_ldlen : after (exec (.ldlen 63) (loaded alice)) (fun t => t.nlen) = some 63 := by decide
theorem test_ldlen_busy : after (exec (.ldlen 7) busyState) (fun t => t.nlen) = some 5 := by decide
theorem test_ldname : after (exec (.ldname 31 0x35) (loaded alice)) (fun t => t.nameAt 31) =
    some 0x35 := by decide
theorem test_ldname_busy : after (exec (.ldname 0 0x5A) busyState) (fun t => t.nameAt 0) =
    some 0x41 := by decide
theorem test_start : after (exec .start ((loaded akira).setTlen 42)) (fun t => (t.upc, t.tlen, t.i)) =
    some (1, 0, 0) := by decide
theorem test_start_refused : exec .start State.reset = .refused .startLengthOutOfRange := rfl
theorem test_rdtok : after (exec (.rdtok 1) doneState) (fun t => t.response) = some 0x0062 := by decide
theorem test_rdtok_busy : after (exec (.rdtok 0) busyState) (fun t => t.response) = some 0 := by decide
theorem test_rdstat : after (exec .rdstat (doneState.setTlen 60)) (fun t => t.response) =
    some 0x3C02 := by decide
theorem test_rdstat_error : after (exec .rdstat (State.reset.setUpc 20)) (fun t => t.response) =
    some 0x0004 := by decide
theorem test_reset : after (exec .reset busyState) (fun t => decide (t = State.reset)) =
    some true := by decide
/-- spec/70_reset_and_hazards.md rule R153: the pin clears a run in progress and 0x0000 is returned. -/
theorem test_step_resetPin : after (step ((busyState.setResponse 0x3C02).setTurns [.resetPin]))
    (fun t => decide (t = State.reset)) = some true := by decide
theorem test_step_reserved_word : after (step (busyState.setTurns [.host 0xC123]))
    (fun t => decide (t = busyState)) = some true := by decide
theorem test_withFetchWord : after (step (State.reset.withFetchWord 8 0x0A)) (fun t => t.bufAt 13) =
    some 0x72 := by decide

/-! ## ENCODE (section 2.10, V2) and scripts (R62, R63) -/

theorem test_encode_guard : encodeName qfnRem abcbe = none ∧ runSteps abcbe = 5 ∧ runSteps akira = 102 := by
  decide
theorem test_trailer_alice : trailer qfnRem 0x41 0x6c 0x69 0x63 0x65 = some [0x00, 0xd2, 0x7c, 0x6b, 0x72, 0x9c] := by
  decide
theorem test_rawBuffer_alice : ((rawBuffer alice [0x00, 0xd2, 0x7c, 0x6b, 0x72, 0x9c]).drop 5).take 4 =
    [0x1d, 0xe1, 0x62, 0xe4] := by rfl
theorem test_loadName : loadName alice = [.host 0x2005, .host 0x4041, .host 0x416C, .host 0x4269,
    .host 0x4363, .host 0x4465] := by decide
theorem test_script_text : (Instr.ldname 0 0x41).scriptLine = "LDNAME 0, 65" ∧
    Instr.chkStep.traceLine 3 = "CHK.STEP[3]" := by decide

/-! ## Witnesses: states and operands that meet the hypotheses of the obligations -/

theorem witness_DecodeOfEncode : (Instr.ldname 31 0xFF).wellFormed = true := by decide
theorem witness_EncodeOfDecode : decode (.command 0x807F) = .ok (.rdtok 127) := by decide
theorem witness_CommandRowsSelectWords :
    commandRows.map (fun r => [0x0000, 0x203F, 0x5FFF, 0x6000, 0x807F, 0xA000, 0xE000].filter
      (fun w => r.selectedBy (BitVec.ofNat 16 w))) =
    [[0x0000], [0x203F], [0x5FFF], [0x6000], [0x807F], [0xA000], [0xE000]] := by decide
theorem witness_ReservedWordExecutesAsNop :
    [0xC000, 0xDFFF, 0x0001, 0x6001, 0xBFFF, 0xFFFF, 0x2040, 0x8080].all (fun w =>
      commandRows.all fun r => !r.selectedBy (BitVec.ofNat 16 w)) = true ∧
    (busyState.setTurns [.host 0xC000]).turns = .host 0xC000 :: [] := by decide
theorem witness_StepRunsHostCommand :
    (busyState.setTurns [.host 0x405A]).turns = .host 0x405A :: [] ∧
    decodeCommand 0x405A = .ok (.ldname 0 0x5A) := by decide
theorem witness_StepRunsSequencerOperation :
    (busyState.setTurns [.sequencer]).turns = .sequencer :: [] ∧
    decodeUop (busyState.setTurns [.sequencer]).upc = .ok .chkStep ∧
    busyState.turns = [] ∧ decodeUop busyState.upc = .ok .chkStep ∧
    (doneState.setTurns [.sequencer]).turns = .sequencer :: [] ∧
    ¬ (1 ≤ doneState.upc.toNat ∧ doneState.upc.toNat ≤ 18) ∧ doneState.turns = [] := by decide

/-- A state of each kind the sequencing rule distinguishes, and that its step answers. -/
theorem witness_SequencerMovesUpcAndI :
    after (step ((at_ (loaded abcbe) 5 0 (assemble abcbe)).setTurns [.sequencer])) (fun t => t.upc) =
      some 20 ∧
    GuardFails (at_ (loaded abcbe) 5 0 (assemble abcbe)) ∧
    after (step ((at_ (loaded alice) 17 18 []).setTurns [.sequencer])) (fun t => (t.upc, t.i)) =
      some (17, 19) ∧
    after (step ((at_ (loaded alice) 17 19 []).setTurns [.sequencer])) (fun t => (t.upc, t.i)) =
      some (18, 0) ∧
    after (step ((at_ (loaded alice) 18 0 []).setTurns [.sequencer])) (fun t => (t.upc, t.i)) =
      some (19, 0) := by
  refine ⟨by decide, by unfold GuardFails; decide, by decide, by decide, by decide⟩

theorem witness_ResetCommandResetsEveryElement :
    (busyState.setTurns [.resetPin]).turns = .resetPin :: [] := rfl
theorem witness_NopChangesNothing : decodeCommand 0xDFFF = .error .reservedCommand ∧
    (busyState.setTurns [.host 0xDFFF]).turns = .host 0xDFFF :: [] := by decide
theorem witness_LdlenSetsLengthUnlessBusy :
    63 < 64 ∧ (loaded alice).busy = false ∧ busyState.busy = true := by decide
theorem witness_LdnameWritesByteUnlessBusy :
    31 < 32 ∧ (loaded alice).busy = false ∧ busyState.busy = true := by decide
theorem witness_StartBeginsRun :
    Quiescent (loaded alice) ∧ LenOk (loaded alice) ∧
    Quiescent (loaded (List.replicate 32 0x41)) ∧ LenOk (loaded (List.replicate 32 0x41)) ∧
    busyState.busy = true := by
  unfold Quiescent LenOk; decide
theorem witness_StartOutsideLengthIsRefused :
    Quiescent (State.reset.setNlen 4) ∧ (State.reset.setNlen 4).nlen.toNat < 5 ∧
    Quiescent (State.reset.setNlen 33) ∧ 32 < (State.reset.setNlen 33).nlen.toNat := by
  unfold Quiescent; decide
theorem witness_RdtokAnswersCharacterInDone :
    95 < 128 ∧ doneState.tlen.toNat ≤ 96 ∧ doneState.upc = 19 ∧ 95 < doneState.tlen.toNat ∧
    ¬ (busyState.upc = 19 ∧ 0 < busyState.tlen.toNat) ∧ ¬ (doneState.upc = 19 ∧ 96 < doneState.tlen.toNat) := by
  decide
theorem witness_CommandsDuringRunChangeNothing :
    (busyState.setTurns [.host 0x6000]).busy = true ∧
    (busyState.setTurns [.host 0x6000]).turns = .host 0x6000 :: [] ∧ (0x6000 : PortWord) ≠ resetWord ∧
    (busyState.setTurns [.host resetWord]).busy = true ∧
    (busyState.setTurns [.host resetWord]).turns = .host resetWord :: [] ∧
    busyState.nextTurn ≠ .host resetWord ∧ busyState.nextTurn ≠ .resetPin ∧
    (nextOf (step busyState)).isSome = true := by decide
theorem witness_HostCannotSeeIntermediates :
    ((loaded alice).setTurns [.host 0xA000]).turns = .host 0xA000 :: [] ∧
    ((((loaded alice).setH 7).setQ 9).setTurns [.host 0xA000]).turns = .host 0xA000 :: [] ∧
    AgreeOn [.nlen, .tok, .tlen, .upc] ((loaded alice).setTurns [.host 0xA000])
      ((((loaded alice).setH 7).setQ 9).setTurns [.host 0xA000]) ∧
    (nextOf (step ((loaded alice).setTurns [.host 0xA000]))).isSome = true ∧
    (nextOf (step ((((loaded alice).setH 7).setQ 9).setTurns [.host 0xA000]))).isSome = true := by
  refine ⟨rfl, rfl, ?_, by decide, by decide⟩
  intro e he
  cases e <;> simp at he <;> first | rfl | exact fun _ => rfl

theorem witness_AsmBodyCopiesName : (State.reset.setNlen 32).n ≤ 32 ∧ (State.reset.setNlen 0).n ≤ 32 := by decide
theorem witness_TrlT1 : (State.reset.setNlen 36).n ≤ 36 := by decide
theorem witness_TrlT2 : (State.reset.setNlen 35).n ≤ 35 := by decide
theorem witness_TrlT3 : (State.reset.setNlen 34).n ≤ 34 := by decide
theorem witness_TrlT4 : (State.reset.setNlen 33).n ≤ 33 := by decide
theorem witness_TrlT5 : (State.reset.setNlen 32).n ≤ 32 := by decide
theorem witness_NamedQuotientFunctions : (0xD0 : Byte) ≠ 0 := by decide
theorem witness_TrlDen_both_ways :
    (((at_ (loaded abcbe) 5 0 (assemble abcbe)).b0.toNat + 256 -
      (at_ (loaded abcbe) 5 0 (assemble abcbe)).b3.toNat + 1) % 256 = 0) ∧
    (((akiraAt 5).b0.toNat + 256 - (akiraAt 5).b3.toNat + 1) % 256 ≠ 0) := by decide
theorem witness_TrailerDependsOnLowNibbles : loNibble 0x41 = loNibble 0xF1 ∧ loNibble 0x2B = loNibble 0x0B := by
  decide

/-- The last position a loop can be at, inside and at the end of the loop. -/
theorem witness_loop_positions :
    ((State.reset.setNlen 32).setI 45).pos + 1 < ((State.reset.setNlen 32).setI 45).len ∧
    ((State.reset.setNlen 32).setI 46).pos < 47 ∧
    ((State.reset.setNlen 32).setI 46).len ≤ ((State.reset.setNlen 32).setI 46).pos + 1 := by decide
theorem witness_FmtCloseEndsRun : (State.reset.setNlen 32).n ≤ 32 ∧ (akiraAt 18).n ≤ 32 ∧ (akiraAt 18).upc = 18 := by
  decide
theorem witness_InvalidNameOnlyFromTrlDen :
    GuardFails (at_ (loaded abcbe) 5 0 (assemble abcbe)) ∧
    (at_ (loaded abcbe) 5 0 (assemble abcbe)).upc ≠ 20 ∧
    after (step (at_ (loaded abcbe) 5 0 (assemble abcbe))) (fun t => t.upc) = some 20 := by
  refine ⟨by unfold GuardFails; decide, by decide, by decide⟩
theorem witness_IndexOutsideStoreFaults :
    32 < (State.reset.setNlen 33).n ∧ 37 ≤ (State.reset.setNlen 37).n ∧ 36 ≤ (State.reset.setNlen 36).n ∧
    35 ≤ (State.reset.setNlen 35).n ∧ 34 ≤ (State.reset.setNlen 34).n ∧ 33 ≤ (State.reset.setNlen 33).n ∧
    47 ≤ (State.reset.setI 47).pos ∧ ((State.reset.setUpc 19).setTlen 127).upc = 19 ∧
    96 < ((State.reset.setUpc 19).setTlen 127).tlen.toNat := by decide
theorem witness_OperationsWriteOnlyTheirElements :
    [Instr.asmClr, .asmTag, .asmLic, .asmBody, .trlDen, .trlQ, .trlT1, .trlT2, .trlT3, .trlT4, .trlT5,
     .chkInit, .chkStep, .chkWr, .obfStep, .fmtOpen, .fmtByte, .fmtClose, .nop, .ldlen 5, .ldname 0 1,
     .start, .rdtok 0, .rdstat, .reset].all
      (fun i => (nextOf (exec i (loaded akira))).isSome) = true := by decide
theorem witness_OperationsReadOnlyTheirElements :
    AgreeOn (Instr.reads .trlT4) (akiraAt 10) ((akiraAt 10).setBuf Store.zeroed) ∧
    (nextOf (exec .trlT4 (akiraAt 10))).isSome = true ∧
    (nextOf (exec .trlT4 ((akiraAt 10).setBuf Store.zeroed))).isSome = true := by
  refine ⟨?_, by decide, by decide⟩
  intro e he
  cases e <;> simp [Instr.reads] at he <;> rfl

/-- V1 just before TRL.DEN meets both invariants. -/
theorem akiraAt_5_inv : Inv (akiraAt 5) where
  memCanonical := by decide
  upcLegal := by decide
  runLenOk := by decide
  posZero := fun _ => by decide
  posInside := by unfold State.inLoop; decide
  tlenBefore := by decide
  tlenBytes := by decide
  tlenClose := by decide
  tlenDone := by decide
  tlenError := by decide
  divisorNonzero := by decide
  divisorError := by decide
  tailZero := fun _ _ a h₁ h₂ =>
    (by decide : ∀ a < 47, (akiraAt 5).len ≤ a → (akiraAt 5).bufAt a = 0) a h₂ h₁

theorem akiraAt_5_layout : Layout (akiraAt 5) where
  tag := by decide
  license := by decide
  checksumZero := fun _ _ a h₁ h₂ =>
    (by decide : ∀ a < 9, 5 ≤ a → (akiraAt 5).bufAt a = 0) a (by omega) h₁
  body := fun _ _ a h =>
    (by decide : ∀ a < 14, (akiraAt 5).bufAt (9 + a) = (akiraAt 5).nameAt a) a h
  trailerFirst := by decide
  trailerUnwritten := fun _ _ j h =>
    (by decide : ∀ j < 6, (akiraAt 5).bufAt ((akiraAt 5).tr + j) = 0) j (by omega)

theorem witness_StepKeepsInvariant_and_Layout :
    Inv (akiraAt 5) ∧ Layout (akiraAt 5) ∧ (nextOf (step (akiraAt 5))).isSome = true :=
  ⟨akiraAt_5_inv, akiraAt_5_layout, by decide⟩
theorem resetWith_inv (ts : List Turn) : Inv (State.reset.setTurns ts) where
  memCanonical := rfl
  upcLegal := Nat.zero_le _
  runLenOk := fun h => Bool.noConfusion h
  posZero := fun _ => rfl
  posInside := fun h => absurd
    (show (0 : UopCode) = 13 ∨ (0 : UopCode) = 15 ∨ (0 : UopCode) = 17 from h) (by decide)
  tlenBefore := fun _ => rfl
  tlenBytes := fun h => absurd (show (0 : UopCode) = 17 from h) (by decide)
  tlenClose := fun h => absurd (show (0 : UopCode) = 18 from h) (by decide)
  tlenDone := fun h => absurd (show (0 : UopCode) = 19 from h) (by decide)
  tlenError := fun _ => rfl
  divisorNonzero := fun h => absurd (show (0 : UopCode) = 6 from h) (by decide)
  divisorError := fun _ => rfl
  tailZero := fun h => absurd (show 2 ≤ 0 from h) (by decide)

/-- Each way a step can go: an operation answers, a turn without an operation answers, a START is refused. -/
theorem witness_StepStopsOnlyAtRefusedStart :
    (Inv (akiraAt 5) ∧ (nextOf (step (akiraAt 5))).isSome = true) ∧
    (Inv (State.reset.setTurns [.sequencer]) ∧
      step (State.reset.setTurns [.sequencer]) = .next State.reset) ∧
    (Inv (State.reset.setTurns [.host startWord]) ∧
      step (State.reset.setTurns [.host startWord]) = .refused .startLengthOutOfRange) :=
  ⟨⟨akiraAt_5_inv, by decide⟩, ⟨resetWith_inv _, rfl⟩, ⟨resetWith_inv _, rfl⟩⟩
theorem witness_AssemblerStage : SequencerOnly (at_ (loaded alice) 1 0 []) ∧
    (at_ (loaded alice) 1 0 []).upc = 1 ∧ LenOk (at_ (loaded alice) 1 0 []) := by
  unfold SequencerOnly LenOk; decide
theorem witness_TrailerStage : SequencerOnly (akiraAt 5) ∧ (akiraAt 5).upc = 5 ∧ LenOk (akiraAt 5) ∧
    (trailer Config.qfn (akiraAt 5).b0 (akiraAt 5).b1 (akiraAt 5).b2 (akiraAt 5).b3 (akiraAt 5).b4).isSome ∧
    trailer Config.qfn 0x41 0x42 0x43 0x42 0x45 = none := ⟨rfl, rfl, rfl, rfl, rfl⟩
theorem witness_ChecksumStage : SequencerOnly (akiraAt 12) ∧ (akiraAt 12).upc = 12 ∧ LenOk (akiraAt 12) := by
  unfold SequencerOnly LenOk; decide
theorem witness_ObfuscationStage : SequencerOnly (akiraAt 15) ∧ (akiraAt 15).upc = 15 ∧
    (akiraAt 15).i = 0 ∧ LenOk (akiraAt 15) := by
  unfold SequencerOnly LenOk; decide
theorem witness_FormatterStage : SequencerOnly (akiraAt 16) ∧ (akiraAt 16).upc = 16 ∧ LenOk (akiraAt 16) := by
  unfold SequencerOnly LenOk; decide
theorem witness_StateAtTrapEntry : ((loaded abcbe).setTurns [.host startWord]).turns = [.host startWord] ∧
    Quiescent ((loaded abcbe).setTurns [.host startWord]) ∧
    LenOk ((loaded abcbe).setTurns [.host startWord]) ∧
    guardFails ((loaded abcbe).setTurns [.host startWord]).nameBytes = true := by
  unfold Quiescent LenOk; decide

/-- The moves of a whole run of "Alice", with a load interleaved that is ignored. -/
def aliceTurns : List Turn := .host 0x2007 :: List.replicate 75 .sequencer

theorem witness_RunComputesEncode :
    Quiescent ((loaded alice).setTurns (.host startWord :: aliceTurns)) ∧
    LenOk ((loaded alice).setTurns (.host startWord :: aliceTurns)) ∧ NoReset aliceTurns ∧
    aliceTurns.getLast? = some .sequencer ∧
    aliceTurns.count .sequencer = runSteps ((loaded alice).setTurns (.host startWord :: aliceTurns)).nameBytes ∧
    (encodeName Config.qfn alice).isSome = true ∧ encodeName Config.qfn abcbe = none := by
  refine ⟨rfl, rfl, ?_, by decide, by decide, rfl, rfl⟩
  unfold NoReset; decide
theorem witness_RunDependsOnNameAlone :
    ((loaded alice).setTurns [.host startWord]).turns = [.host startWord] ∧
    (((doneState.setName (Store.zeroed.writeBlock 0 (alice ++ [9]))).setNlen 5).setTurns
      [.host startWord]).turns = [.host startWord] ∧
    Quiescent ((loaded alice).setTurns [.host startWord]) ∧
    Quiescent (((doneState.setName (Store.zeroed.writeBlock 0 (alice ++ [9]))).setNlen 5).setTurns
      [.host startWord]) ∧
    LenOk ((loaded alice).setTurns [.host startWord]) ∧
    (∀ a, a < 5 → (doneState.setName (Store.zeroed.writeBlock 0 (alice ++ [9]))).nameAt a =
      (loaded alice).nameAt a) := by
  unfold Quiescent LenOk; decide
theorem witness_EncodeTestableProperties : 5 ≤ alice.length ∧ alice.length ≤ 32 ∧
    [0x41, 0x6c, 0x69, 0x63, 0x66].length = alice.length ∧ [0x41, 0x6c, 0x69, 0x63, 0x66] ≠ alice ∧
    (encodeName qfnRem alice).isSome = true ∧
    (encodeName qfnRem [0x41, 0x6c, 0x69, 0x63, 0x66]).isSome = true := by decide

end Sys2Proof.Tests
end

section
/-! PROOFS. The state after reset (spec/10_state.md rule R28). -/

namespace Sys2Proof.Machine

/-- Settles O9: each element of the reset state as R28 gives it; a byte of a zeroed store is 0 at every
index. -/
theorem resetValues : Obligations.ResetValues := by
  have zero (a : Nat) : Store.zeroed.read a = 0 := Store.read_zeroed a
  exact ⟨rfl, rfl, zero, zero, rfl, rfl, rfl, rfl, zero, rfl, rfl, rfl, rfl⟩

end Sys2Proof.Machine
end

section
/-! PROOFS. Each micro-operation as its data effect followed by the move of `UPC` and `I`
(spec/40_sequencer.md rule R74), and what both leave unchanged. -/

namespace Sys2Proof.Machine

/-! ## The operation `UPC` selects -/

/-- `UPC` selects a micro-operation at 1..18, and it is the one with that code. -/
theorem decodeUop_of_busy {c : UopCode} (h1 : 1 ≤ c.toNat) (h18 : c.toNat ≤ 18) :
    ∃ i, decodeUop c = .ok i ∧ encode i = .uop c := by
  have hc : c = BitVec.ofNat 5 c.toNat := by simp
  generalize c.toNat = k at *
  subst hc
  interval_cases k <;> exact ⟨_, rfl, rfl⟩

section uop
variable {i : Instr} {c : UopCode}

theorem isLoop_iff_of_encode (hc : encode i = .uop c) :
    i.isLoop = true ↔ c.toNat = 13 ∨ c.toNat = 15 ∨ c.toNat = 17 := by
  cases i <;> cases hc <;> decide

theorem decodeUop_of_encode (hc : encode i = .uop c) : decodeUop c = .ok i := by
  cases i <;> cases hc <;> rfl

/-- A code belongs to one micro-operation. -/
theorem uop_unique {j : Instr} (hi : encode i = .uop c) (hj : decodeUop c = .ok j) : i = j := by
  rw [decodeUop_of_encode hi] at hj; exact Except.ok.inj hj

theorem eq_trlDen_iff_of_encode (hc : encode i = .uop c) : i = .trlDen ↔ c.toNat = 5 := by
  cases i <;> cases hc <;> decide

end uop

/-! ## Which state a micro-operation with bounded accesses answers, its indices inside the stores -/

section inside
variable {s : State}

theorem execAsmBody_inside (hn : s.n ≤ 32) :
    execAsmBody s = .next (nextUop (s.setBuf (s.mem.buf.writeBlock 9 s.nameBytes))) := by
  rw [execAsmBody, copyName_inside hn (show 9 + s.n ≤ 47 by omega)]; rfl

theorem execChkStep_inside (hp : s.pos < 47) :
    execChkStep s = .next (loopUop (s.setH (chkFold s.h (s.bufAt s.pos)))) := by
  rw [execChkStep, loadBuf_inside _ hp]

theorem execObfStep_inside (hp : s.pos < 47) : execObfStep s =
    .next (loopUop (s.setBuf (s.mem.buf.write s.pos (obf s.pos (s.bufAt s.pos))))) := by
  rw [execObfStep, loadBuf_inside _ hp, memWrite1, storeBuf_inside (by simpa using hp)]; rfl

theorem execFmtByte_inside (hp : s.pos < 47) : execFmtByte s =
    .next (loopUop ((s.setTok (s.mem.tok.writeBlock (1 + 2 * s.pos) (hexPair (s.bufAt s.pos)))).setTlen
      (BitVec.ofNat 7 (3 + 2 * s.pos)))) := by
  rw [execFmtByte, loadBuf_inside _ hp, storeTok_inside (by simp [hexPair]; omega)]; rfl

theorem execFmtClose_inside (hl : s.len ≤ 47) : execFmtClose s =
    .next (nextUop ((s.setTok (s.mem.tok.write (2 * s.len + 1) 0x3E)).setTlen
      (BitVec.ofNat 7 (2 * s.len + 2)))) := by
  rw [execFmtClose, storeTok_inside (by simp; omega)]; rfl

end inside

/-! ## A micro-operation as data effect and move -/

/-- What a micro-operation writes besides `UPC` and `I` (R27); `exec_uop` ties it to `exec`. -/
def dataEffect (i : Instr) (s : State) : State :=
  match i with
  | .asmClr => s.setBuf Store.zeroed
  | .asmTag => s.setBuf (s.mem.buf.writeBlock 0 [0x70])
  | .asmLic => s.setBuf (s.mem.buf.writeBlock 1 [0xFF, 0x39, 0x65, 0x03])
  | .asmBody => s.setBuf (s.mem.buf.writeBlock 9 s.nameBytes)
  | .trlDen => s.setDenom (divisor s.b0 s.b3)
  | .trlQ => s.setQ (Config.qfn s.b0 s.b1 s.denom)
  | .trlT1 => s.setBuf (s.mem.buf.write (s.tr + 1) (trailer1 s.b0 s.b1 s.b2 s.b3 s.b4))
  | .trlT2 => s.setBuf (s.mem.buf.write (s.tr + 2) (trailer2 s.q s.b4))
  | .trlT3 => s.setBuf (s.mem.buf.write (s.tr + 3) (trailer3 s.b0 s.b1 s.b2 s.b3 s.b4))
  | .trlT4 => s.setBuf (s.mem.buf.write (s.tr + 4) Params.t4Const)
  | .trlT5 => s.setBuf (s.mem.buf.write (s.tr + 5) (trailer5 s.b0 s.b1 s.b2 s.b3 s.b4))
  | .chkInit => s.setH 0
  | .chkStep => s.setH (chkFold s.h (s.bufAt s.pos))
  | .chkWr => s.setBuf (s.mem.buf.writeBlock 5 (le32 s.h))
  | .obfStep => s.setBuf (s.mem.buf.write s.pos (obf s.pos (s.bufAt s.pos)))
  | .fmtOpen => (s.setTok (s.mem.tok.write 0 0x3C)).setTlen 1
  | .fmtByte => (s.setTok (s.mem.tok.writeBlock (1 + 2 * s.pos) (hexPair (s.bufAt s.pos)))).setTlen
      (BitVec.ofNat 7 (3 + 2 * s.pos))
  | .fmtClose => (s.setTok (s.mem.tok.write (2 * s.len + 1) 0x3E)).setTlen (BitVec.ofNat 7 (2 * s.len + 2))
  | .nop | .ldlen _ | .ldname _ _ | .start | .rdtok _ | .rdstat | .reset => s

/-- How a micro-operation moves `UPC` and `I` once its data is written: the exception, the loop, or
`next` (R74, R131). -/
def advance (i : Instr) (s : State) : State :=
  if i = .trlDen ∧ s.denom = 0 then raiseInvalidName s
  else if i.isLoop then loopUop s else nextUop s

/-- TRL.DEN answers in every state: the exception when the divisor it writes is 0. -/
theorem execTrlDen_eq (s : State) : execTrlDen s = .next (advance .trlDen (dataEffect .trlDen s)) := by
  by_cases hd : divisor s.b0 s.b3 = 0
  · rw [execTrlDen, if_pos hd, advance, if_pos ⟨rfl, hd⟩]; rfl
  · rw [execTrlDen, if_neg hd, advance, if_neg (fun h => hd h.2)]; rfl

/-- With a legal length and a position of the KeyBuffer, a micro-operation answers, with its data effect
and its move. -/
theorem exec_uop {i : Instr} {c : UopCode} {s : State} (hc : encode i = .uop c) (hn : s.n ≤ 32)
    (hp : s.pos < s.len) : exec i s = .next (advance i (dataEffect i s)) := by
  have hlen := s.len_eq
  have htr := s.tr_eq
  cases i with
  | asmClr | asmTag | asmLic | trlQ | chkInit | chkWr | fmtOpen => rfl
  | asmBody => exact execAsmBody_inside hn
  | trlDen => exact execTrlDen_eq s
  | trlT1 | trlT2 | trlT3 | trlT4 | trlT5 => exact writeTrailer_inside _ (by omega)
  | chkStep => exact execChkStep_inside (by omega)
  | obfStep => exact execObfStep_inside (by omega)
  | fmtByte => exact execFmtByte_inside (by omega)
  | fmtClose => exact execFmtClose_inside (by omega)
  | nop | ldlen | ldname | start | rdtok | rdstat | reset => cases hc

section dataEffect
variable (i : Instr) (s : State)
@[simp] theorem dataEffect_turns : (dataEffect i s).turns = s.turns := by cases i <;> rfl
@[simp] theorem dataEffect_upc : (dataEffect i s).upc = s.upc := by cases i <;> rfl
@[simp] theorem dataEffect_i : (dataEffect i s).i = s.i := by cases i <;> rfl
@[simp] theorem dataEffect_nlen : (dataEffect i s).nlen = s.nlen := by cases i <;> rfl
@[simp] theorem dataEffect_nameBytes : (dataEffect i s).nameBytes = s.nameBytes := by cases i <;> rfl
@[simp] theorem dataEffect_n : (dataEffect i s).n = s.n := by cases i <;> rfl
@[simp] theorem dataEffect_len : (dataEffect i s).len = s.len := by cases i <;> rfl
@[simp] theorem dataEffect_pos : (dataEffect i s).pos = s.pos := by cases i <;> rfl
end dataEffect

/-- The three moves, with what tells them apart. -/
theorem advance_cases (i : Instr) (s : State) :
    (i = .trlDen ∧ s.denom = 0 ∧ advance i s = raiseInvalidName s) ∨
    (i.isLoop = true ∧ s.pos + 1 < s.len ∧ advance i s = s.setI (s.i + 1)) ∨
    (¬ (i = .trlDen ∧ s.denom = 0) ∧ (i.isLoop = true → s.len ≤ s.pos + 1) ∧
      advance i s = nextUop s) := by
  by_cases hd : i = .trlDen ∧ s.denom = 0
  · exact .inl ⟨hd.1, hd.2, if_pos hd⟩
  · rw [advance, if_neg hd]
    by_cases hl : i.isLoop = true
    · rw [if_pos hl]
      rcases loopUop_cases s with ⟨hp, h⟩ | ⟨hp, h⟩
      · exact .inr (.inl ⟨hl, hp, h⟩)
      · exact .inr (.inr ⟨hd, fun _ => hp, h⟩)
    · exact .inr (.inr ⟨hd, fun h => absurd h hl, if_neg hl⟩)

end Sys2Proof.Machine
end

section
/-! PROOFS. A run of the sequencer alone: its invariant, and how many steps it takes
(spec/40_sequencer.md rule R80). -/

namespace Sys2Proof.Machine

/-! ## A run, its invariant and the steps it still takes -/

/-- What holds of a state from an accepted START to the end of its run, the sequencer alone moving. No
register or store is assumed to hold a particular value before the run writes it. -/
structure Running (s : State) : Prop where
  alone : SequencerOnly s
  upcPos : 1 ≤ s.upc.toNat
  upcLe : s.upc.toNat ≤ 20
  lenOk : 5 ≤ s.n ∧ s.n ≤ 32
  /-- `I` is a position of the KeyBuffer (R19). -/
  posInside : s.pos < s.len
  /-- `I` is 0 outside the loops (R19). -/
  posZero : ¬ s.inLoop → s.pos = 0
  /-- The two bytes the division guard reads are the name's (R87, R89). -/
  body : s.upc.toNat = 5 → s.b0 = nameByte s.nameBytes 0 ∧ s.b3 = nameByte s.nameBytes 3
  /-- `TLEN` as FMT.BYTE proceeds and before FMT.CLOSE (R23, R125). -/
  tlenBytes : s.upc.toNat = 17 → s.tlen.toNat = 1 + 2 * s.pos
  tlenClose : s.upc.toNat = 18 → s.tlen.toNat = 2 * s.len + 1

/-- The sequencer steps from a state of a run to its end (R80). -/
def stepsLeft (s : State) : Nat :=
  if s.upc.toNat ≤ 5 ∧ guardFails s.nameBytes = true then 6 - s.upc.toNat
  else if s.upc.toNat ≤ 13 then 16 - s.upc.toNat + 3 * s.len - s.pos
  else if s.upc.toNat ≤ 15 then 17 - s.upc.toNat + 2 * s.len - s.pos
  else if s.upc.toNat ≤ 17 then 18 - s.upc.toNat + s.len - s.pos
  else 19 - s.upc.toNat

theorem State.inLoop_iff_toNat (s : State) :
    s.inLoop ↔ s.upc.toNat = 13 ∨ s.upc.toNat = 15 ∨ s.upc.toNat = 17 := by
  simp [State.inLoop, ← BitVec.toNat_inj]

theorem stepsLeft_pos {s : State} (hs : Running s) : 0 < stepsLeft s ↔ s.upc.toNat ≤ 18 := by
  have hp := hs.posInside
  have hz := hs.posZero
  rw [s.inLoop_iff_toNat] at hz
  unfold stepsLeft
  split_ifs <;> omega

section step
variable {s : State} {i : Instr}

/-- A state of an unfinished run steps by the micro-operation at `UPC`. -/
theorem Running.step_eq (hs : Running s) (hb : s.upc.toNat ≤ 18) :
    ∃ i, encode i = .uop s.upc ∧ step s = .next (advance i (dataEffect i s)) := by
  obtain ⟨i, hd, hc⟩ := decodeUop_of_busy hs.upcPos hb
  exact ⟨i, hc, (step_alone hs.alone hd).trans (exec_uop hc hs.lenOk.2 hs.posInside)⟩

theorem upc_add_one_toNat (h : s.upc.toNat ≤ 18) : (s.upc + 1).toNat = s.upc.toNat + 1 := by
  rw [BitVec.toNat_add]; simp; omega

theorem pos_setI_add_one (h : s.pos ≤ 46) : (s.setI (s.i + 1)).pos = s.pos + 1 := by
  show (s.i + 1).toNat = s.i.toNat + 1
  have : s.i.toNat ≤ 46 := h
  rw [BitVec.toNat_add]; simp; omega

/-- After ASM.BODY the two bytes the guard reads are the name's. -/
theorem dataEffect_guardBytes (hc : encode i = .uop s.upc) (h4 : s.upc.toNat = 4) (hn : 5 ≤ s.n) :
    (dataEffect i s).b0 = nameByte s.nameBytes 0 ∧ (dataEffect i s).b3 = nameByte s.nameBytes 3 := by
  obtain rfl : i = .asmBody := uop_unique hc (by simp [decodeUop, h4])
  have hlen : s.nameBytes.length = s.n := Store.length_readBlock ..
  constructor
  · exact (Store.read_writeBlock ..).trans (if_pos (by omega))
  · exact (Store.read_writeBlock ..).trans (if_pos (by omega))

theorem dataEffect_fmtOpen_tlen (hc : encode i = .uop s.upc) (h16 : s.upc.toNat = 16) :
    (dataEffect i s).tlen.toNat = 1 := by
  obtain rfl : i = .fmtOpen := uop_unique hc (by simp [decodeUop, h16])
  rfl

theorem dataEffect_fmtByte_tlen (hc : encode i = .uop s.upc) (h17 : s.upc.toNat = 17)
    (hp : s.pos < 47) : (dataEffect i s).tlen.toNat = 3 + 2 * s.pos := by
  obtain rfl : i = .fmtByte := uop_unique hc (by simp [decodeUop, h17])
  show (BitVec.ofNat 7 (3 + 2 * s.pos)).toNat = _
  rw [BitVec.toNat_ofNat]; omega

/-- At TRL.DEN the divisor written is 0 exactly when the guard rejects the name. -/
theorem trlDen_denom_eq_zero_iff (hs : Running s) (h5 : s.upc.toNat = 5) :
    (dataEffect .trlDen s).denom = 0 ↔ guardFails s.nameBytes = true := by
  obtain ⟨hb0, hb3⟩ := hs.body h5
  show divisor s.b0 s.b3 = 0 ↔ _
  rw [hb0, hb3, guardFails, beq_iff_eq]

/-- The three moves of a run's step, told apart by the state before it. -/
theorem running_advance_cases (hs : Running s) (hb : s.upc.toNat ≤ 18) (hc : encode i = .uop s.upc) :
    (s.upc.toNat = 5 ∧ guardFails s.nameBytes = true ∧
      advance i (dataEffect i s) = raiseInvalidName (dataEffect i s)) ∨
    ((s.upc.toNat = 13 ∨ s.upc.toNat = 15 ∨ s.upc.toNat = 17) ∧ s.pos + 1 < s.len ∧
      (advance i (dataEffect i s)).pos = s.pos + 1 ∧
      advance i (dataEffect i s) = (dataEffect i s).setI ((dataEffect i s).i + 1)) ∨
    ((s.upc.toNat = 5 → ¬ guardFails s.nameBytes = true) ∧
      (s.upc.toNat = 13 ∨ s.upc.toNat = 15 ∨ s.upc.toNat = 17 → s.pos + 1 = s.len) ∧
      (advance i (dataEffect i s)).upc.toNat = s.upc.toNat + 1 ∧
      advance i (dataEffect i s) = nextUop (dataEffect i s)) := by
  have hden := eq_trlDen_iff_of_encode hc
  have hpos := hs.posInside
  have hlen := s.len_eq
  have hn := hs.lenOk
  rw [← isLoop_iff_of_encode hc]
  rcases advance_cases i (dataEffect i s) with ⟨hi, hd, heq⟩ | ⟨hl, hp, heq⟩ | ⟨hd, hp, heq⟩
  · exact .inl ⟨hden.mp hi, (trlDen_denom_eq_zero_iff hs (hden.mp hi)).mp (hi ▸ hd), heq⟩
  · rw [dataEffect_pos, dataEffect_len] at hp
    refine .inr (.inl ⟨hl, hp, ?_, heq⟩)
    rw [heq, pos_setI_add_one (by rw [dataEffect_pos]; omega), dataEffect_pos]
  · rw [dataEffect_pos, dataEffect_len] at hp
    refine .inr (.inr ⟨fun h5 hg => ?_, fun hl => by have := hp hl; omega, ?_, heq⟩)
    · obtain rfl := hden.mpr h5
      exact hd ⟨rfl, (trlDen_denom_eq_zero_iff hs h5).mpr hg⟩
    · rw [heq, nextUop_upc, dataEffect_upc, upc_add_one_toNat hb]

/-- The sequencer keeps the invariant of a run. -/
theorem running_advance (hs : Running s) (hb : s.upc.toNat ≤ 18) (hc : encode i = .uop s.upc) :
    Running (advance i (dataEffect i s)) := by
  have hlen := s.len_eq
  have hn := hs.lenOk
  have hpos := hs.posInside
  have halone : (dataEffect i s).turns = [] := (dataEffect_turns i s).trans hs.alone
  have hlenOk : 5 ≤ (dataEffect i s).n ∧ (dataEffect i s).n ≤ 32 := by rwa [dataEffect_n]
  have hlen0 : 0 < (dataEffect i s).len := by rw [dataEffect_len]; omega
  rcases running_advance_cases hs hb hc with ⟨-, -, heq⟩ | ⟨hl, hp, hpos', heq⟩ | ⟨-, hp, hupc, heq⟩
  · rw [heq]
    exact ⟨halone, by simp, by simp, hlenOk, hlen0, fun _ => rfl, by simp, by simp, by simp⟩
  · have hupc : (advance i (dataEffect i s)).upc.toNat = s.upc.toNat := by
      rw [heq, State.setI_upc, dataEffect_upc]
    rw [heq] at hpos' hupc ⊢
    have hup := hs.upcPos
    refine ⟨halone, by omega, by omega, hlenOk, ?_, fun h => ?_, fun h => by omega, fun h => ?_,
      fun h => by omega⟩
    · rwa [hpos', State.setI_len, dataEffect_len]
    · exact absurd ((State.inLoop_iff_toNat _).mpr (hupc ▸ hl)) h
    · have := dataEffect_fmtByte_tlen hc (by omega) (by omega)
      rw [hpos', State.setI_tlen]; omega
  · rw [heq] at hupc ⊢
    refine ⟨halone, by omega, by omega, hlenOk, hlen0, fun _ => rfl, fun h => ?_, fun h => ?_, fun h => ?_⟩
    · rw [show (nextUop (dataEffect i s)).nameBytes = s.nameBytes from dataEffect_nameBytes i s]
      exact dataEffect_guardBytes hc (by omega) hn.1
    · exact dataEffect_fmtOpen_tlen hc (by omega)
    · have := dataEffect_fmtByte_tlen hc (by omega) (by omega)
      have := hp (.inr (.inr (by omega)))
      rw [nextUop_tlen, nextUop_len, dataEffect_len]; omega

/-- Each step of the sequencer brings the end of the run one step nearer. -/
theorem stepsLeft_advance (hs : Running s) (hb : s.upc.toNat ≤ 18) (hc : encode i = .uop s.upc) :
    stepsLeft (advance i (dataEffect i s)) + 1 = stepsLeft s := by
  have hpos := hs.posInside
  have hpz := hs.posZero
  rw [s.inLoop_iff_toNat] at hpz
  have hlen := s.len_eq
  have hup := hs.upcPos
  rcases running_advance_cases hs hb hc with ⟨h5, hg, heq⟩ | ⟨hl, hp, hpos', heq⟩ | ⟨hg5, hp, hupc, heq⟩
  · rw [heq]; simp [stepsLeft, h5, hg]
  · unfold stepsLeft
    rw [hpos', heq, State.setI_upc, State.setI_len, dataEffect_upc, dataEffect_len]
    split_ifs <;> omega
  · have hname : (nextUop (dataEffect i s)).nameBytes = s.nameBytes := dataEffect_nameBytes i s
    have hpos' : (nextUop (dataEffect i s)).pos = 0 := rfl
    unfold stepsLeft
    rw [hupc, heq, hpos', hname, nextUop_len, dataEffect_len]
    by_cases hg : guardFails s.nameBytes = true
    · have h5 : s.upc.toNat ≠ 5 := fun h5 => hg5 h5 hg
      simp only [hg, and_true]
      split_ifs <;> omega
    · simp only [hg, Bool.false_eq_true, and_false, if_false]
      split_ifs <;> omega

end step

end Sys2Proof.Machine
end

section
/-! PROOFS. The outcome of a run depends on the name alone (spec/10_state.md rule R29): two runs stay in a
relation that asks for agreement on a data element only once the run has written it. -/

namespace Sys2Proof.Machine

/-! ## Two runs of one name -/

/-- Two states of runs that agree on everything but the data no operation with a code below `k` has
written yet, and the bytes of `TOK` from `TLEN` up. -/
structure AgreeAt (k : Nat) (s s' : State) : Prop where
  upc : s'.upc = s.upc
  i : s'.i = s.i
  nlen : s'.nlen = s.nlen
  tlen : s'.tlen = s.tlen
  name : s'.nameBytes = s.nameBytes
  tok : ∀ a, a < s.tlen.toNat → s'.tokAt a = s.tokAt a
  /-- `BUF` is written by ASM.CLR, the first operation. -/
  buf : 2 ≤ k → ∀ a, s'.bufAt a = s.bufAt a
  /-- `DENOM` is written by TRL.DEN, `Q` by TRL.Q, `H` by CHK.INIT. -/
  denom : 6 ≤ k → s'.denom = s.denom
  q : 7 ≤ k → s'.q = s.q
  h : 13 ≤ k → s'.h = s.h

namespace AgreeAt
variable {j k : Nat} {s s' : State}

theorem mono (h : AgreeAt k s s') (hj : j ≤ k) : AgreeAt j s s' :=
  { h with
    buf := fun h2 => h.buf (h2.trans hj)
    denom := fun h6 => h.denom (h6.trans hj)
    q := fun h7 => h.q (h7.trans hj)
    h := fun h13 => h.h (h13.trans hj) }

theorem n (h : AgreeAt k s s') : s'.n = s.n := congrArg BitVec.toNat h.nlen
theorem len (h : AgreeAt k s s') : s'.len = s.len := congrArg (15 + ·) h.n
theorem pos (h : AgreeAt k s s') : s'.pos = s.pos := congrArg BitVec.toNat h.i

theorem tr (h : AgreeAt k s s') : s'.tr = s.tr := congrArg (9 + ·) h.n

theorem token (h : AgreeAt k s s') : s'.token = s.token := by
  rw [State.token, h.tlen]
  exact Store.readBlock_congr fun a ha => by rw [Nat.zero_add]; exact h.tok a ha

/-- The bytes `b0..b4` the Trailer Deriver reads (R89) agree once `BUF` does. -/
theorem operands (h : AgreeAt k s s') (hk : 2 ≤ k) :
    s'.b0 = s.b0 ∧ s'.b1 = s.b1 ∧ s'.b2 = s.b2 ∧ s'.b3 = s.b3 ∧ s'.b4 = s.b4 :=
  ⟨h.buf hk 9, h.buf hk 10, h.buf hk 11, h.buf hk 12, h.buf hk 13⟩

/-! Writing the same to both states keeps their agreement. -/

theorem setControl (h : AgreeAt k s s') (u : UopCode) (v : BitVec 6) :
    AgreeAt k ((s.setUpc u).setI v) ((s'.setUpc u).setI v) := { h with upc := rfl, i := rfl }

theorem setDenom (h : AgreeAt k s s') (v : Byte) : AgreeAt k (s.setDenom v) (s'.setDenom v) :=
  { h with denom := fun _ => rfl }

theorem setQ (h : AgreeAt k s s') (v : Byte) : AgreeAt k (s.setQ v) (s'.setQ v) :=
  { h with q := fun _ => rfl }

theorem setH (h : AgreeAt k s s') (v : Word) : AgreeAt k (s.setH v) (s'.setH v) :=
  { h with h := fun _ => rfl }

theorem setBuf (h : AgreeAt k s s') {m m' : Store} (hm : 2 ≤ k → ∀ a, m'.read a = m.read a) :
    AgreeAt k (s.setBuf m) (s'.setBuf m') := { h with buf := hm }

theorem writeBuf (h : AgreeAt k s s') (a : Nat) (vs : List Byte) :
    AgreeAt k (s.setBuf (s.mem.buf.writeBlock a vs)) (s'.setBuf (s'.mem.buf.writeBlock a vs)) :=
  h.setBuf fun hk b => by
    rw [Store.read_writeBlock, Store.read_writeBlock]
    exact congrArg (ite _ _) (h.buf hk b)

/-- Characters laid at or before the end of the token, which then ends no later than they do. -/
theorem writeTok (h : AgreeAt k s s') {a : Nat} {vs : List Byte} {v : BitVec 7}
    (ha : a ≤ s.tlen.toNat) (hv : v.toNat ≤ a + vs.length) :
    AgreeAt k ((s.setTok (s.mem.tok.writeBlock a vs)).setTlen v)
      ((s'.setTok (s'.mem.tok.writeBlock a vs)).setTlen v) :=
  { h with
    tlen := rfl
    tok := fun b hb => by
      show Store.read (s'.mem.tok.writeBlock a vs) b = Store.read (s.mem.tok.writeBlock a vs) b
      rw [Store.read_writeBlock, Store.read_writeBlock]
      split_ifs with hin
      · rfl
      · have : b < v.toNat := hb
        exact h.tok b (by omega) }

/-- The same micro-operation writes the same data in both states, if it lays its characters at the end
of the token. -/
theorem dataEffect_same {i : Instr} {c : UopCode} (hc : encode i = .uop c) (h : AgreeAt c.toNat s s')
    (hbytes : c.toNat = 17 → s.tlen.toNat = 1 + 2 * s.pos)
    (hclose : c.toNat = 18 → s.tlen.toNat = 2 * s.len + 1) :
    AgreeAt c.toNat (dataEffect i s) (dataEffect i s') := by
  cases i <;> cases hc <;> simp only [dataEffect, h.name, h.tr, h.pos, h.len]
  case asmClr => exact h.setBuf fun _ _ => rfl
  case asmTag => exact h.writeBuf 0 _
  case asmLic => exact h.writeBuf 1 _
  case asmBody => exact h.writeBuf 9 _
  case trlDen =>
    obtain ⟨h0, -, -, h3, -⟩ := h.operands (by decide)
    rw [h0, h3]; exact h.setDenom _
  case trlQ =>
    obtain ⟨h0, h1, -, -, -⟩ := h.operands (by decide)
    rw [h0, h1, h.denom (by decide)]; exact h.setQ _
  case trlT1 | trlT3 | trlT5 =>
    obtain ⟨h0, h1, h2, h3, h4⟩ := h.operands (by decide)
    rw [h0, h1, h2, h3, h4]; exact h.writeBuf _ [_]
  case trlT2 =>
    obtain ⟨-, -, -, -, h4⟩ := h.operands (by decide)
    rw [h.q (by decide), h4]; exact h.writeBuf _ [_]
  case trlT4 => exact h.writeBuf _ [Params.t4Const]
  case chkInit => exact h.setH 0
  case chkStep => rw [h.h (by decide), h.buf (by decide)]; exact h.setH _
  case chkWr => rw [h.h (by decide)]; exact h.writeBuf 5 _
  case obfStep => rw [h.buf (by decide)]; exact h.writeBuf _ [_]
  case fmtOpen => exact h.writeTok (vs := [0x3C]) (v := 1) (Nat.zero_le _) (by decide)
  case fmtByte =>
    rw [h.buf (by decide)]
    exact h.writeTok (by rw [hbytes rfl]) (by simp [hexPair]; omega)
  case fmtClose => exact h.writeTok (vs := [0x3E]) (by rw [hclose rfl]) (by simp; omega)

/-- The data first written by the operation with code `k` agree after it. -/
theorem succ (h : AgreeAt k s s') (hbuf : k = 1 → ∀ a, s'.bufAt a = s.bufAt a)
    (hdenom : k = 5 → s'.denom = s.denom) (hq : k = 6 → s'.q = s.q) (hh : k = 12 → s'.h = s.h) :
    AgreeAt (k + 1) s s' :=
  { h with
    buf := fun _ => if hk : k = 1 then hbuf hk else h.buf (by omega)
    denom := fun _ => if hk : k = 5 then hdenom hk else h.denom (by omega)
    q := fun _ => if hk : k = 6 then hq hk else h.q (by omega)
    h := fun _ => if hk : k = 12 then hh hk else h.h (by omega) }

/-- After a micro-operation, what it is the first to write agrees as well. -/
theorem dataEffect_succ {i : Instr} {c : UopCode} (hc : encode i = .uop c) (h : AgreeAt c.toNat s s')
    (he : AgreeAt c.toNat (dataEffect i s) (dataEffect i s')) :
    AgreeAt (c.toNat + 1) (dataEffect i s) (dataEffect i s') := by
  refine he.succ (fun hk => ?_) (fun hk => ?_) (fun hk => ?_) (fun hk => ?_)
  · obtain rfl : i = .asmClr := uop_unique hc (by simp [decodeUop, hk])
    exact fun _ => rfl
  · obtain rfl : i = .trlDen := uop_unique hc (by simp [decodeUop, hk])
    obtain ⟨h0, -, -, h3, -⟩ := h.operands (by omega)
    exact congrArg₂ divisor h0 h3
  · obtain rfl : i = .trlQ := uop_unique hc (by simp [decodeUop, hk])
    obtain ⟨h0, h1, -, -, -⟩ := h.operands (by omega)
    show Config.qfn s'.b0 s'.b1 s'.denom = _
    rw [h0, h1, h.denom (by omega)]; rfl
  · obtain rfl : i = .chkInit := uop_unique hc (by simp [decodeUop, hk])
    rfl

/-- The move of `UPC` and `I` keeps the agreement, once the divisor its guard looks at agrees. -/
theorem advance_same {i : Instr} (h : AgreeAt k s s') (hden : i = .trlDen → 6 ≤ k) :
    AgreeAt k (advance i s) (advance i s') := by
  by_cases hd : i = .trlDen ∧ s.denom = 0
  · have hd' : i = .trlDen ∧ s'.denom = 0 := ⟨hd.1, (h.denom (hden hd.1)).trans hd.2⟩
    rw [advance, advance, if_pos hd, if_pos hd']
    exact (h.setDenom 0).setControl 20 0
  · have hd' : ¬ (i = .trlDen ∧ s'.denom = 0) := fun hd' => hd ⟨hd'.1, (h.denom (hden hd'.1)) ▸ hd'.2⟩
    rw [advance, advance, if_neg hd, if_neg hd', loopUop, loopUop, nextUop, nextUop, h.pos, h.len, h.upc, h.i]
    split_ifs
    · exact { h with i := rfl }
    · exact h.setControl _ 0
    · exact h.setControl _ 0

end AgreeAt

/-- Two states of runs that agree on the outcome so far and, while the run goes on, on all data it has
written. -/
def RunsAlike (s s' : State) : Prop :=
  ∃ k, AgreeAt k s s' ∧ (s.upc.toNat ≤ 18 → s.upc.toNat ≤ k)

/-- A step of the sequencer in each of two runs keeps them alike. -/
theorem runsAlike_advance {s s' : State} {i : Instr} (h : RunsAlike s s') (hs : Running s)
    (hb : s.upc.toNat ≤ 18) (hc : encode i = .uop s.upc) :
    RunsAlike (advance i (dataEffect i s)) (advance i (dataEffect i s')) := by
  obtain ⟨k, hk, hle⟩ := h
  have hu : AgreeAt s.upc.toNat s s' := hk.mono (hle hb)
  have he := hu.dataEffect_succ hc (hu.dataEffect_same hc hs.tlenBytes hs.tlenClose)
  have hden : i = .trlDen → 6 ≤ s.upc.toNat + 1 := fun hi => by
    have := (eq_trlDen_iff_of_encode hc).mp hi
    omega
  refine ⟨_, he.advance_same hden, ?_⟩
  rcases advance_cases i (dataEffect i s) with ⟨-, -, heq⟩ | ⟨-, -, heq⟩ | ⟨-, -, heq⟩ <;> rw [heq]
  · simp
  · simp
  · intro _
    simpa using (upc_add_one_toNat hb).le

/-- Two runs that are alike reach their ends alike, in `stepsLeft` steps of the first. -/
theorem runsAlike_to_end {s s' : State} (hs : Running s) (hs' : Running s') (h : RunsAlike s s') :
    ∃ t t', run (stepsLeft s) s = .next t ∧ run (stepsLeft s) s' = .next t' ∧
      Running t ∧ 19 ≤ t.upc.toNat ∧ RunsAlike t t' := by
  induction hm : stepsLeft s generalizing s s' with
  | zero =>
    have hend := stepsLeft_pos hs
    exact ⟨s, s', rfl, rfl, hs, by omega, h⟩
  | succ m ih =>
    have hb : s.upc.toNat ≤ 18 := (stepsLeft_pos hs).mp (by omega)
    have hupc : s'.upc = s.upc := h.elim fun _ hk => hk.1.upc
    obtain ⟨i, hc, hstep⟩ := hs.step_eq hb
    obtain ⟨i', hc', hstep'⟩ := hs'.step_eq (hupc ▸ hb)
    rw [hupc] at hc'
    obtain rfl : i' = i := uop_unique hc' (decodeUop_of_encode hc)
    have hleft := stepsLeft_advance hs hb hc
    obtain ⟨t, t', ht⟩ := ih (running_advance hs hb hc) (running_advance hs' (hupc ▸ hb) (hupc ▸ hc'))
      (runsAlike_advance h hs hb hc) (by omega)
    exact ⟨t, t', by rwa [run_succ_next hstep, run_succ_next hstep']⟩

/-! ## The start of a run -/

/-- The state an accepted START begins its run in, the host with nothing more to do. -/
def started (s : State) : State := respond (beginRun (s.setTurns [])) 0

@[simp] theorem started_upc (s : State) : (started s).upc = 1 := rfl

theorem step_start {s : State} (ht : s.turns = [.host startWord]) (hq : Quiescent s) (hl : LenOk s) :
    step s = .next (started s) := by
  have hd : decodeCommand startWord = .ok .start := rfl
  rw [step_host ht hd]
  show execStart _ = _
  simp only [execStart, State.setTurns_busy, State.setTurns_lenOk, show s.busy = false from hq,
    show s.lenOk = true from hl]
  rfl

theorem running_started {s : State} (hl : LenOk s) : Running (started s) where
  alone := rfl
  upcPos := by simp
  upcLe := by simp
  lenOk := (State.lenOk_iff s).mp hl
  posInside := show 0 < Params.ovh + s.n by simp [Params.ovh]
  posZero := fun _ => rfl
  body := by simp
  tlenBytes := by simp
  tlenClose := by simp

theorem stepsLeft_started (s : State) : stepsLeft (started s) = runSteps s.nameBytes := by
  have hlen : s.nameBytes.length = s.n := Store.length_readBlock ..
  have hname : (started s).nameBytes = s.nameBytes := rfl
  have hl : (started s).len = 15 + s.n := rfl
  have hpos : (started s).pos = 0 := rfl
  unfold stepsLeft runSteps
  rw [hname, started_upc, hl, hpos, hlen]
  cases guardFails s.nameBytes
  · show 16 - 1 + 3 * (15 + s.n) - 0 = 15 + 3 * (15 + s.n)
    omega
  · rfl

/-- Runs of the same name begin alike: nothing is written yet, and `TLEN` is 0. -/
theorem runsAlike_started {s s' : State} (hn : s'.nlen = s.nlen)
    (hname : ∀ a, a < s.n → s'.nameAt a = s.nameAt a) : RunsAlike (started s) (started s') := by
  refine ⟨1, ?_, fun _ => le_refl 1⟩
  have hbytes : s'.nameBytes = s.nameBytes := by
    rw [State.nameBytes, show s'.n = s.n from congrArg BitVec.toNat hn]
    exact Store.readBlock_congr fun a ha => by rw [Nat.zero_add]; exact hname a ha
  exact
    { upc := rfl, i := rfl, nlen := hn, tlen := rfl, name := hbytes
      tok := fun a ha => absurd ha (Nat.not_lt_zero a)
      buf := fun h => absurd h (by decide)
      denom := fun h => absurd h (by decide)
      q := fun h => absurd h (by decide)
      h := fun h => absurd h (by decide) }

/-- Settles O57: the two runs step by step execute the same operations on data that agree as soon as the
run has written them, and so end alike. -/
theorem runDependsOnNameAlone : Obligations.RunDependsOnNameAlone := by
  intro s s' ht ht' hq hq' hl hn hname
  have hl' : LenOk s' := by
    rw [LenOk, State.lenOk_iff, show s'.n = s.n from congrArg BitVec.toNat hn]
    exact (State.lenOk_iff s).mp hl
  obtain ⟨t, t', hrun, hrun', hend, h19, k, hk, -⟩ :=
    runsAlike_to_end (running_started hl) (running_started hl') (runsAlike_started hn hname)
  rw [stepsLeft_started] at hrun hrun'
  refine ⟨t, t', ?_, ?_, ?_, hk.upc, hk.tlen, hk.token⟩
  · rw [Nat.add_comm, run_succ_next (step_start ht hq hl), hrun]
  · rw [Nat.add_comm, run_succ_next (step_start ht' hq' hl'), hrun']
  · have h20 := hend.upcLe
    rw [← BitVec.toNat_inj, ← BitVec.toNat_inj]
    show t.upc.toNat = 19 ∨ t.upc.toNat = 20
    omega

end Sys2Proof.Machine
end

section
/-! PROOFS. The fields of a command word and the rows of the command map in arithmetic
(spec/30_encoding.md rules R56 and R57), and the reserved words (rule R60). -/

namespace Sys2Proof

/-! ## Fields and rows in arithmetic -/

theorem cmdField_eq (w : PortWord) (lo n : Nat) : cmdField w lo n = w.toNat / 2 ^ lo % 2 ^ n := by
  rw [cmdField, BitVec.extractLsb'_toNat, Nat.shiftRight_eq_div_pow]

theorem cmdField_code (w : PortWord) : cmdField w 13 3 = w.toNat / 8192 := by
  rw [cmdField_eq]
  exact Nat.mod_eq_of_lt (Nat.div_lt_of_lt_mul w.isLt)

theorem ifZero_of_ne_zero {field : Nat} {i : Instr} (h : field ≠ 0) :
    ifZero field i = .error .reservedBits := if_neg h

/-- A row whose mask leaves out the low `k` bits selects the words that agree with its value above them. -/
theorem CommandRow.selectedBy_iff {r : CommandRow} {w : PortWord} {k : Nat}
    (hmask : r.mask = BitVec.allOnes 16 <<< k) :
    r.selectedBy w = true ↔ w.toNat / 2 ^ k * 2 ^ k = r.value.toNat := by
  have hlt : w.toNat / 2 ^ k * 2 ^ k < 2 ^ 16 := (Nat.div_mul_le_self _ _).trans_lt w.isLt
  rw [selectedBy, beq_iff_eq, hmask, ← BitVec.shiftLeft_ushiftRight, ← BitVec.toNat_inj,
    BitVec.toNat_shiftLeft, BitVec.toNat_ushiftRight, Nat.shiftRight_eq_div_pow, Nat.shiftLeft_eq,
    Nat.mod_eq_of_lt hlt]

/-- No row selects a word, row by row in the order of R57. -/
theorem forall_selectedBy_eq_false_iff (w : PortWord) :
    (∀ r ∈ commandRows, r.selectedBy w = false) ↔
      w.toNat ≠ 0x0000 ∧ w.toNat / 64 * 64 ≠ 0x2000 ∧ w.toNat / 8192 * 8192 ≠ 0x4000 ∧
      w.toNat ≠ 0x6000 ∧ w.toNat / 128 * 128 ≠ 0x8000 ∧ w.toNat ≠ 0xA000 ∧ w.toNat ≠ 0xE000 := by
  simp only [commandRows, List.forall_mem_cons, ← Bool.not_eq_true]
  rw [CommandRow.selectedBy_iff (k := 0) rfl, CommandRow.selectedBy_iff (k := 6) rfl,
    CommandRow.selectedBy_iff (k := 13) rfl, CommandRow.selectedBy_iff (k := 0) rfl,
    CommandRow.selectedBy_iff (k := 7) rfl, CommandRow.selectedBy_iff (k := 0) rfl,
    CommandRow.selectedBy_iff (k := 0) rfl]
  simp

/-! ## Reserved words -/

/-- The reserved words as R60 lists them: code 110, or a must-be-zero bit of the code's format set. -/
def ReservedWord (w : PortWord) : Prop :=
  w.toNat / 8192 = 6 ∨
  (w.toNat / 8192 = 0 ∨ w.toNat / 8192 = 3 ∨ w.toNat / 8192 = 5 ∨ w.toNat / 8192 = 7) ∧
    w.toNat % 8192 ≠ 0 ∨
  w.toNat / 8192 = 1 ∧ w.toNat % 8192 / 64 ≠ 0 ∨
  w.toNat / 8192 = 4 ∧ w.toNat % 8192 / 128 ≠ 0

/-- A word is reserved when no row of R57 selects it. -/
theorem forall_selectedBy_eq_false_iff_reservedWord (w : PortWord) :
    (∀ r ∈ commandRows, r.selectedBy w = false) ↔ ReservedWord w := by
  have hw : w.toNat < 65536 := w.isLt
  rw [forall_selectedBy_eq_false_iff, ReservedWord]
  omega

/-- The decoder reads no operation from a reserved word. -/
theorem ReservedWord.decodeCommand_eq_error {w : PortWord} (h : ReservedWord w) :
    ∃ e, decodeCommand w = .error e := by
  rw [decodeCommand, cmdField_code]
  obtain hc | ⟨hc, hlow⟩ | ⟨hc, hlow⟩ | ⟨hc, hlow⟩ := h
  · rw [hc]; exact ⟨_, rfl⟩
  · have hz : cmdField w 0 13 ≠ 0 := by rw [cmdField_eq]; omega
    obtain hc | hc | hc | hc := hc <;> rw [hc] <;> exact ⟨_, ifZero_of_ne_zero hz⟩
  · have hz : cmdField w 6 7 ≠ 0 := by rw [cmdField_eq]; omega
    rw [hc]; exact ⟨_, ifZero_of_ne_zero hz⟩
  · have hz : cmdField w 7 6 ≠ 0 := by rw [cmdField_eq]; omega
    rw [hc]; exact ⟨_, ifZero_of_ne_zero hz⟩

end Sys2Proof

namespace Sys2Proof.Machine

/-- A response and the move taken off the schedule are all that answering a word without effect changes. -/
theorem respond_setTurns_keepsAllBut (s : State) (ts : List Turn) (v : PortWord) :
    KeepsAllBut [.response, .turns] s (respond (s.setTurns ts) v) := by
  intro e he
  cases e with
  | name | buf | tok => exact fun _ => rfl
  | nlen | h | denom | q | i | upc | tlen => rfl
  | response | turns => simp at he

/-- Settles O5: in arithmetic, no row's mask and value admit a word exactly when R60 lists it; the decoder
then answers an error, on which the step only responds. -/
theorem reservedWordExecutesAsNop : Obligations.ReservedWordExecutesAsNop := by
  intro w
  have hiff := forall_selectedBy_eq_false_iff_reservedWord w
  refine ⟨hiff, fun hrows s ts ht => ?_⟩
  obtain ⟨e, hd⟩ := (hiff.mp hrows).decodeCommand_eq_error
  exact ⟨_, step_reserved ht hd, rfl, rfl, respond_setTurns_keepsAllBut s ts 0⟩

end Sys2Proof.Machine
end

section
/-! PROOFS. What a decoded command word says of the word (spec/30_encoding.md rules R56 to R58), what a
micro-operation that answers has done, and the host's moves during a run (spec/40_sequencer.md rule R77). -/

namespace Sys2Proof

/-! ## From the decoded command back to the word -/

theorem cmdWord_toNat (code : BitVec 3) (idx : BitVec 5) (low : Byte) :
    (cmdWord code idx low).toNat = 8192 * code.toNat + 256 * idx.toNat + low.toNat := by
  rw [cmdWord, BitVec.toNat_append, BitVec.toNat_append, ← Nat.shiftLeft_add_eq_or_of_lt idx.isLt,
    ← Nat.shiftLeft_add_eq_or_of_lt low.isLt, Nat.shiftLeft_eq, Nat.shiftLeft_eq]
  omega

/-- The word of a code whose `idx` field and low bits are known. -/
theorem eq_cmdWord {w : PortWord} {code : BitVec 3} {idx : BitVec 5} {low : Byte}
    (hcode : w.toNat / 8192 = code.toNat) (hlow : w.toNat % 8192 = 256 * idx.toNat + low.toNat) :
    cmdWord code idx low = w := by
  rw [← BitVec.toNat_inj, cmdWord_toNat]; omega

theorem ifZero_eq_ok {field : Nat} {i j : Instr} (h : ifZero field i = .ok j) : field = 0 ∧ j = i := by
  unfold ifZero at h
  split at h
  · exact ⟨‹_›, by cases h; rfl⟩
  · cases h

/-- A command is read from the word it encodes to alone. -/
theorem encode_of_decodeCommand {w : PortWord} {i : Instr} (h : decodeCommand w = .ok i) :
    encode i = .command w := by
  have hw := w.isLt
  rw [decodeCommand, cmdField_code] at h
  have hcode : w.toNat / 8192 < 8 := by omega
  have zero13 {j : Instr} (h : ifZero (cmdField w 0 13) j = .ok i) : w.toNat % 8192 = 0 ∧ i = j := by
    obtain ⟨hz, hi⟩ := ifZero_eq_ok h
    rw [cmdField_eq] at hz
    exact ⟨by omega, hi⟩
  have low8 {f : Nat} (hf : f < 256) (h : w.toNat % 8192 = f) :
      w.toNat % 8192 = 256 * (0 : BitVec 5).toNat + (BitVec.ofNat 8 f).toNat := by
    rw [BitVec.toNat_ofNat, Nat.mod_eq_of_lt hf, h]; simp
  generalize hc : w.toNat / 8192 = c at h hcode
  interval_cases c
  · obtain ⟨hz, rfl⟩ := zero13 h
    exact congrArg Code.command (eq_cmdWord hc hz)
  · obtain ⟨hz, rfl⟩ := ifZero_eq_ok h
    rw [cmdField_eq] at hz
    have hlen := cmdField_eq w 0 6
    exact congrArg Code.command (eq_cmdWord hc (low8 (by omega) (by omega)))
  · obtain rfl := Except.ok.inj h
    refine congrArg Code.command (eq_cmdWord hc ?_)
    rw [cmdField_eq, BitVec.toNat_ofNat, BitVec.extractLsb'_toNat, Nat.shiftRight_zero]
    omega
  · obtain ⟨hz, rfl⟩ := zero13 h
    exact congrArg Code.command (eq_cmdWord hc hz)
  · obtain ⟨hz, rfl⟩ := ifZero_eq_ok h
    rw [cmdField_eq] at hz
    have htidx := cmdField_eq w 0 7
    exact congrArg Code.command (eq_cmdWord hc (low8 (by omega) (by omega)))
  · obtain ⟨hz, rfl⟩ := zero13 h
    exact congrArg Code.command (eq_cmdWord hc hz)
  · cases h
  · obtain ⟨hz, rfl⟩ := zero13 h
    exact congrArg Code.command (eq_cmdWord hc hz)

end Sys2Proof

namespace Sys2Proof.Machine

@[simp] theorem dataEffect_name (i : Instr) (s : State) : (dataEffect i s).mem.name = s.mem.name := by
  cases i <;> rfl

section advance
variable (i : Instr) (s : State)
@[simp] theorem advance_mem : (advance i s).mem = s.mem := by
  rcases advance_cases i s with ⟨-, -, h⟩ | ⟨-, -, h⟩ | ⟨-, -, h⟩ <;> rw [h] <;> rfl
@[simp] theorem advance_nlen : (advance i s).nlen = s.nlen := by
  rcases advance_cases i s with ⟨-, -, h⟩ | ⟨-, -, h⟩ | ⟨-, -, h⟩ <;> rw [h] <;> rfl
@[simp] theorem advance_turns : (advance i s).turns = s.turns := by
  rcases advance_cases i s with ⟨-, -, h⟩ | ⟨-, -, h⟩ | ⟨-, -, h⟩ <;> rw [h] <;> rfl
end advance

section uop
variable {s t : State} {i : Instr} {c : UopCode}

/-- A micro-operation that answers has had its data effect and its move, and a loop one ran at a position
`BUF` has. -/
theorem exec_uop_next (hc : encode i = .uop c) (h : exec i s = .next t) :
    t = advance i (dataEffect i s) ∧ (i.isLoop = true → s.pos < 47) := by
  cases i with
  | asmClr => exact ⟨execAsmClr_next h, nofun⟩
  | asmTag => exact ⟨execAsmTag_next h, nofun⟩
  | asmLic => exact ⟨execAsmLic_next h, nofun⟩
  | asmBody => exact ⟨(execAsmBody_next h).2, nofun⟩
  | trlDen => exact ⟨Host.Outcome.next.inj (h.symm.trans (execTrlDen_eq s)), nofun⟩
  | trlQ => exact ⟨execTrlQ_next h, nofun⟩
  | trlT1 | trlT2 | trlT3 | trlT4 | trlT5 => exact ⟨(writeTrailer_next h).2, nofun⟩
  | chkInit => exact ⟨execChkInit_next h, nofun⟩
  | chkStep => exact ⟨(execChkStep_next h).2, fun _ => (execChkStep_next h).1⟩
  | chkWr => exact ⟨execChkWr_next h, nofun⟩
  | obfStep => exact ⟨(execObfStep_next h).2, fun _ => (execObfStep_next h).1⟩
  | fmtOpen => exact ⟨execFmtOpen_next h, nofun⟩
  | fmtByte => exact ⟨(execFmtByte_next h).2, fun _ => (execFmtByte_next h).1⟩
  | fmtClose => exact ⟨(execFmtClose_next h).2, nofun⟩
  | nop | ldlen | ldname | start | rdtok | rdstat | reset => cases hc

end uop

/-! ## `STATUS`, and the host's moves during a run -/

section status
variable (s : State)

theorem status_toNat : s.status.toNat = 4 * s.isErr.toNat + 2 * s.isDone.toNat + s.busy.toNat := by
  unfold State.status
  cases s.isErr <;> cases s.isDone <;> cases s.busy <;> rfl

/-- The response word of RDSTAT as a number (R58). -/
theorem statusWord_toNat : s.statusWord.toNat = 256 * s.tlenVis.toNat + s.status.toNat := by
  have hstatus := s.status.isLt
  have hvis := s.tlenVis.isLt
  simp only [State.statusWord, BitVec.toNat_append, BitVec.toNat_ofNat, Nat.zero_mod, Nat.zero_shiftLeft,
    Nat.zero_or, Nat.or_zero]
  rw [← Nat.shiftLeft_add_eq_or_of_lt hstatus, Nat.shiftLeft_eq, Nat.shiftLeft_eq]
  omega

end status

theorem isDone_of_busy {s : State} (hb : s.busy = true) : s.isDone = false := by
  rw [← Bool.not_eq_true, s.isDone_iff]
  intro h
  rw [s.busy_iff, h] at hb
  exact absurd hb.2 (by decide)

theorem isErr_of_busy {s : State} (hb : s.busy = true) : s.isErr = false := by
  rw [← Bool.not_eq_true, s.isErr_iff]
  intro h
  rw [s.busy_iff, h] at hb
  exact absurd hb.2 (by decide)

theorem statusWord_of_busy {s : State} (hb : s.busy = true) : s.statusWord = 0x0001 := by
  rw [← BitVec.toNat_inj, statusWord_toNat, status_toNat, State.tlenVis, isDone_of_busy hb,
    isErr_of_busy hb, hb]
  rfl

/-- A host's word other than RESET, while BUSY, is answered and changes no element: 1 for RDSTAT, 0 otherwise
(R77). -/
theorem step_host_busy {s : State} {w : PortWord} {ts : List Turn} (hb : s.busy = true)
    (ht : s.turns = .host w :: ts) (hw : w ≠ resetWord) :
    step s = .next (respond (s.setTurns ts) (if w = 0xA000 then 0x0001 else 0x0000)) := by
  have hb' : (s.setTurns ts).busy = true := hb
  cases hd : decodeCommand w with
  | error e =>
    have hne : w ≠ 0xA000 := by rintro rfl; cases hd
    rw [step_reserved ht hd, if_neg hne]; rfl
  | ok i =>
    have hword : encode i = .command w := encode_of_decodeCommand hd
    have hstat : w = 0xA000 ↔ i = .rdstat :=
      ⟨fun h => by rw [h] at hd; cases hd; rfl, fun h => by rw [h] at hword; cases hword; rfl⟩
    rw [step_host ht hd]
    simp only [hstat]
    cases i with
    | nop => rfl
    | ldlen len => exact if_pos hb'
    | ldname idx data => exact if_pos hb'
    | start => exact if_pos hb'
    | rdtok tidx => exact if_neg (by simp [isDone_of_busy hb])
    | rdstat => rw [exec, execRdstat, statusWord_of_busy hb']; rfl
    | reset => cases hword; exact absurd rfl hw
    | _ => cases hword

end Sys2Proof.Machine
end

section
/-! PROOFS. Runs in which the host's moves interleave with the sequencer's (spec/40_sequencer.md rules R67,
R77): but for the schedule and the word last returned, they go as the sequencer's moves alone. -/

namespace Sys2Proof.Machine

/-! ## The sequencer's part of a state -/

/-- A state without what the host alone touches during a run: nothing scheduled, 0 last returned. -/
def quiet (s : State) : State := (s.setTurns []).setResponse 0

theorem dataEffect_quiet (i : Instr) (s : State) : dataEffect i (quiet s) = quiet (dataEffect i s) := by
  cases i <;> rfl

theorem advance_quiet (i : Instr) (s : State) : advance i (quiet s) = quiet (advance i s) := by
  rw [advance, advance, loopUop, loopUop, show (quiet s).denom = s.denom from rfl,
    show (quiet s).pos = s.pos from rfl, show (quiet s).len = s.len from rfl]
  split_ifs <;> rfl

theorem busy_of_stepsLeft {s : State} (hs : Running s) (hpos : 0 < stepsLeft s) : s.busy = true :=
  s.busy_iff.mpr ⟨hs.upcPos, (stepsLeft_pos hs).mp hpos⟩

/-- The sequencer alone, up to the end of its run: it keeps the invariant and the name. -/
theorem running_run {s : State} {k : Nat} (hs : Running s) (hk : k ≤ stepsLeft s) :
    ∃ t, run k s = .next t ∧ Running t ∧ stepsLeft t + k = stepsLeft s ∧
      t.mem.name = s.mem.name ∧ t.nlen = s.nlen := by
  induction k generalizing s with
  | zero => exact ⟨s, rfl, hs, rfl, rfl, rfl⟩
  | succ k ih =>
    have hb : s.upc.toNat ≤ 18 := (stepsLeft_pos hs).mp (by omega)
    obtain ⟨i, hc, hstep⟩ := hs.step_eq hb
    have hleft := stepsLeft_advance hs hb hc
    obtain ⟨t, hrun, ht, hlt, hname, hnlen⟩ := ih (running_advance hs hb hc) (by omega)
    refine ⟨t, by rw [run_succ_next hstep, hrun], ht, by omega, ?_, ?_⟩
    · rw [hname, advance_mem, dataEffect_name]
    · rw [hnlen, advance_nlen, dataEffect_nlen]

theorem NoReset.of_subset {ts us : List Turn} (h : NoReset us) (hsub : ts ⊆ us) : NoReset ts :=
  ⟨fun hm => h.1 (hsub hm), fun hm => h.2 (hsub hm)⟩

section interleaved
variable {s : State} {ts rs : List Turn}

/-- The sequencer's move in a run, as its move alone. -/
theorem step_sequencer_quiet (hs : Running (quiet s)) (hpos : 0 < stepsLeft (quiet s))
    (ht : s.turns = .sequencer :: ts) :
    ∃ t, step s = .next t ∧ t.turns = ts ∧ step (quiet s) = .next (quiet t) := by
  obtain ⟨i, hc, hstep⟩ := hs.step_eq ((stepsLeft_pos hs).mp hpos)
  refine ⟨advance i (dataEffect i (s.setTurns ts)), ?_, ?_, ?_⟩
  · rw [step_sequencer ht (decodeUop_of_encode hc)]
    exact exec_uop hc hs.lenOk.2 hs.posInside
  · rw [advance_turns, dataEffect_turns]; rfl
  · rw [hstep, ← advance_quiet, ← dataEffect_quiet]; rfl

/-- Moves without a reset, of which the sequencer's do not end the run, go as the sequencer's alone. -/
theorem run_interleaved (ht : s.turns = ts ++ rs) (hr : NoReset ts) (hs : Running (quiet s))
    (hk : ts.count .sequencer < stepsLeft (quiet s)) :
    ∃ t, run ts.length s = .next t ∧ t.turns = rs ∧
      run (ts.count .sequencer) (quiet s) = .next (quiet t) := by
  induction ts generalizing s with
  | nil => exact ⟨s, rfl, ht, rfl⟩
  | cons a ts ih =>
    have hr' : NoReset ts := hr.of_subset (List.subset_cons_self ..)
    cases a with
    | host w =>
      have hw : w ≠ resetWord := by rintro rfl; exact hr.1 (.head _)
      have hb : s.busy = true := busy_of_stepsLeft (s := quiet s) hs (by omega)
      have hstep := step_host_busy hb ht hw
      rw [List.count_cons_of_ne (by simp)] at hk ⊢
      rw [List.length_cons, run_succ_next hstep]
      exact ih (s := respond (s.setTurns (ts ++ rs)) _) rfl hr' hs hk
    | sequencer =>
      obtain ⟨u, hstep, hu, hquiet⟩ := step_sequencer_quiet hs (by omega) ht
      rw [List.count_cons_self] at hk ⊢
      obtain ⟨v, hv, hrun, hleft, -⟩ := running_run (k := 1) hs (by omega)
      obtain rfl : v = quiet u := Host.Outcome.next.inj (hv.symm.trans (run_succ_next hquiet))
      rw [List.length_cons, run_succ_next hstep, run_succ_next hquiet]
      exact ih hu hr' hrun (by omega)
    | resetPin => exact absurd (.head _) hr.2

/-- The state then is one of a run, with the sequencer's moves taken. -/
theorem run_interleaved_running (ht : s.turns = ts ++ rs) (hr : NoReset ts) (hs : Running (quiet s))
    (hk : ts.count .sequencer < stepsLeft (quiet s)) :
    ∃ t, run ts.length s = .next t ∧ t.turns = rs ∧ Running (quiet t) ∧
      run (ts.count .sequencer) (quiet s) = .next (quiet t) ∧
      stepsLeft (quiet t) + ts.count .sequencer = stepsLeft (quiet s) := by
  obtain ⟨t, hrun, hturns, hquiet⟩ := run_interleaved ht hr hs hk
  obtain ⟨u, hu, hrunning, hleft, -⟩ := running_run hs hk.le
  obtain rfl : quiet t = u := Host.Outcome.next.inj (hquiet.symm.trans hu)
  exact ⟨t, hrun, hturns, hrunning, hquiet, hleft⟩

/-- Before the sequencer's last move the run is unfinished. -/
theorem run_interleaved_busy (ht : s.turns = ts ++ rs) (hr : NoReset ts) (hs : Running (quiet s))
    (hk : ts.count .sequencer < stepsLeft (quiet s)) {k : Nat} (hle : k ≤ ts.length) :
    ∃ u, run k s = .next u ∧ u.busy = true := by
  have hsplit : s.turns = ts.take k ++ (ts.drop k ++ rs) := by
    rw [ht, ← List.append_assoc, List.take_append_drop]
  have hcount := (List.take_sublist k ts).count_le .sequencer
  obtain ⟨u, hrun, -, hu, -, hleft⟩ :=
    run_interleaved_running hsplit (hr.of_subset (List.take_subset k ts)) hs (by omega)
  rw [List.length_take_of_le hle] at hrun
  exact ⟨u, hrun, busy_of_stepsLeft (s := quiet u) hu (by omega)⟩

/-- With the sequencer's last move the run ends as the sequencer's alone. -/
theorem run_interleaved_end (ht : s.turns = ts ++ [.sequencer]) (hr : NoReset ts) (hs : Running (quiet s))
    (hk : ts.count .sequencer + 1 = stepsLeft (quiet s)) :
    ∃ t, run (ts.length + 1) s = .next t ∧ t.turns = [] ∧
      run (stepsLeft (quiet s)) (quiet s) = .next (quiet t) := by
  obtain ⟨u, hrun, hturns, hrunning, hquiet, hleft⟩ := run_interleaved_running ht hr hs (by omega)
  obtain ⟨t, hstep, hnil, hlast⟩ := step_sequencer_quiet hrunning (by omega) hturns
  refine ⟨t, (run_add hrun).trans (run_succ_next hstep), hnil, ?_⟩
  rw [← hk]
  exact (run_add hquiet).trans (run_succ_next hlast)

end interleaved

end Sys2Proof.Machine
end

section
/-! PROOFS. Blocks of a store as lists: how a written block shows in a longer one (spec/20_memory.md rule R33). -/

namespace Sys2Proof.Machine.Store

theorem readBlock_add (m : Store) (a j k : Nat) :
    m.readBlock a (j + k) = m.readBlock a j ++ m.readBlock (a + j) k := by
  simp [readBlock, List.range_add, Nat.add_assoc]

theorem readBlock_succ (m : Store) (a k : Nat) :
    m.readBlock a (k + 1) = m.readBlock a k ++ [m.read (a + k)] := by
  simp [readBlock, List.range_succ]

@[simp] theorem readBlock_zeroed (a n : Nat) : zeroed.readBlock a n = List.replicate n 0 := by
  simp [readBlock, unlisted, List.map_const']

theorem readBlock_writeBlock_same (m : Store) (a : Nat) (vs : List Byte) :
    (m.writeBlock a vs).readBlock a vs.length = vs := by
  refine List.ext_getElem (by simp) fun k hk hk' => ?_
  simp [readBlock, read_writeBlock, hk']

/-- A block written inside a longer one replaces its part of it. -/
theorem readBlock_writeBlock (m : Store) {a n : Nat} {vs : List Byte} (h : a + vs.length ≤ n) :
    (m.writeBlock a vs).readBlock 0 n =
      (m.readBlock 0 n).take a ++ vs ++ (m.readBlock 0 n).drop (a + vs.length) := by
  obtain ⟨r, rfl⟩ := Nat.exists_eq_add_of_le h
  have hbefore : (m.writeBlock a vs).readBlock 0 a = m.readBlock 0 a :=
    readBlock_congr fun k hk => read_writeBlock_outside vs m (.inl (by omega))
  have hafter : (m.writeBlock a vs).readBlock (a + vs.length) r = m.readBlock (a + vs.length) r :=
    readBlock_congr fun k _ => read_writeBlock_outside vs m (.inr (by omega))
  rw [readBlock_add, readBlock_add, Nat.zero_add, Nat.zero_add, hbefore, readBlock_writeBlock_same,
    hafter, readBlock_add m, readBlock_add m, Nat.zero_add, Nat.zero_add]
  congr 1
  · congr 1; simp [List.append_assoc]
  · rw [List.drop_left' (by simp)]

/-- A block written at the end of another extends it. -/
theorem readBlock_writeBlock_append (m : Store) (a : Nat) (vs : List Byte) :
    (m.writeBlock a vs).readBlock 0 (a + vs.length) = m.readBlock 0 a ++ vs := by
  rw [readBlock_writeBlock m le_rfl, readBlock_add m]
  simp

end Sys2Proof.Machine.Store
end

section
/-! PROOFS. The sequencer alone through a straight line of micro-operations and through a loop
(spec/40_sequencer.md rule R74). -/

namespace Sys2Proof.Machine

/-- One step as a run. -/
theorem run_one {s t : State} (h : step s = .next t) : run 1 s = .next t := run_succ_next h

/-- A run, and a run from where it ends. -/
theorem run_trans {j k : Nat} {s t u : State} (h : run j s = .next t) (h' : run k t = .next u) :
    run (j + k) s = .next u := (run_add h).trans h'

/-! ## Straight lines -/

/-- Micro-operations in the order of their codes from `c` up, each of which only goes on to the next. -/
def straightLine : UopCode → List Instr → Bool
  | _, [] => true
  | c, i :: is => decide (encode i = .uop c ∧ i.isLoop = false ∧ i ≠ .trlDen) && straightLine (c + 1) is

/-- The data effects of a straight line, with its moves. -/
def execLine (is : List Instr) (s : State) : State := is.foldl (fun u i => nextUop (dataEffect i u)) s

/-- Outside the loops a micro-operation answers whatever `I` is. -/
theorem exec_straight {i : Instr} {c : UopCode} {s : State} (hc : encode i = .uop c)
    (hl : i.isLoop = false) (hd : i ≠ .trlDen) (hn : s.n ≤ 32) :
    exec i s = .next (nextUop (dataEffect i s)) := by
  have htr := s.tr_eq
  have hlen := s.len_eq
  cases i with
  | asmClr | asmTag | asmLic | trlQ | chkInit | chkWr | fmtOpen => rfl
  | asmBody => exact execAsmBody_inside hn
  | trlDen => exact absurd rfl hd
  | trlT1 | trlT2 | trlT3 | trlT4 | trlT5 => exact writeTrailer_inside _ (by omega)
  | fmtClose => exact execFmtClose_inside (by omega)
  | chkStep | obfStep | fmtByte => cases hl
  | nop | ldlen | ldname | start | rdtok | rdstat | reset => cases hc

theorem run_line {is : List Instr} {s : State} (ha : SequencerOnly s) (hn : s.n ≤ 32)
    (h : straightLine s.upc is = true) : run is.length s = .next (execLine is s) := by
  induction is generalizing s with
  | nil => rfl
  | cons i is ih =>
    simp only [straightLine, Bool.and_eq_true, decide_eq_true_eq] at h
    obtain ⟨⟨hc, hl, hd⟩, hrest⟩ := h
    have hstep : step s = .next (nextUop (dataEffect i s)) :=
      (step_alone ha (decodeUop_of_encode hc)).trans (exec_straight hc hl hd hn)
    rw [List.length_cons, run_succ_next hstep]
    refine ih ?_ ?_ ?_
    · exact (dataEffect_turns i s).trans ha
    · rwa [nextUop_n, dataEffect_n]
    · rwa [nextUop_upc, dataEffect_upc]

theorem execLine_turns (is : List Instr) (s : State) : (execLine is s).turns = s.turns := by
  induction is generalizing s with
  | nil => rfl
  | cons i is ih => exact (ih _).trans (dataEffect_turns i s)

/-! ## Loops -/

/-- A loop UOP's data effect at `k` positions in a row. -/
def loopIter (i : Instr) : Nat → State → State
  | 0, s => s
  | k + 1, s => (dataEffect i (loopIter i k s)).setI ((loopIter i k s).i + 1)

section loopIter
variable (i : Instr) (k : Nat) (s : State)
@[simp] theorem loopIter_turns : (loopIter i k s).turns = s.turns := by
  induction k with
  | zero => rfl
  | succ k ih => exact (dataEffect_turns ..).trans ih
@[simp] theorem loopIter_upc : (loopIter i k s).upc = s.upc := by
  induction k with
  | zero => rfl
  | succ k ih => exact (dataEffect_upc ..).trans ih
@[simp] theorem loopIter_nlen : (loopIter i k s).nlen = s.nlen := by
  induction k with
  | zero => rfl
  | succ k ih => exact (dataEffect_nlen ..).trans ih
@[simp] theorem loopIter_n : (loopIter i k s).n = s.n := congrArg BitVec.toNat (loopIter_nlen i k s)
@[simp] theorem loopIter_len : (loopIter i k s).len = s.len := congrArg (15 + ·) (loopIter_n i k s)
end loopIter

theorem loopIter_pos {i : Instr} {k : Nat} {s : State} (hi : s.i = 0) (hk : k < 64) :
    (loopIter i k s).pos = k := by
  induction k with
  | zero => exact congrArg BitVec.toNat hi
  | succ k ih =>
    have hpos : (loopIter i k s).i.toNat = k := ih (by omega)
    show ((loopIter i k s).i + 1).toNat = k + 1
    rw [BitVec.toNat_add, hpos]
    exact Nat.mod_eq_of_lt hk

section run_loop
variable {i : Instr} {s : State}

/-- One step inside a loop, or its last. -/
theorem step_loop (ha : SequencerOnly s) (hc : encode i = .uop s.upc) (hl : i.isLoop = true)
    (hn : s.n ≤ 32) (hp : s.pos < s.len) : step s = .next (loopUop (dataEffect i s)) := by
  have hd : ¬ (i = .trlDen ∧ (dataEffect i s).denom = 0) := by rintro ⟨rfl, -⟩; cases hl
  rw [step_alone ha (decodeUop_of_encode hc), exec_uop hc hn hp, advance, if_neg hd, if_pos hl]

theorem step_loopIter (ha : SequencerOnly s) (hc : encode i = .uop s.upc) (hl : i.isLoop = true)
    (hn : s.n ≤ 32) (hi : s.i = 0) {k : Nat} (hk : k < s.len) :
    step (loopIter i k s) = .next (loopUop (dataEffect i (loopIter i k s))) := by
  have hlen := s.len_eq
  refine step_loop ((loopIter_turns ..).trans ha) (by rwa [loopIter_upc]) hl (by rwa [loopIter_n]) ?_
  rwa [loopIter_pos hi (by omega), loopIter_len]

theorem run_loopIter (ha : SequencerOnly s) (hc : encode i = .uop s.upc) (hl : i.isLoop = true)
    (hn : s.n ≤ 32) (hi : s.i = 0) {k : Nat} (hk : k < s.len) : run k s = .next (loopIter i k s) := by
  have hlen := s.len_eq
  induction k with
  | zero => rfl
  | succ k ih =>
    refine run_trans (ih (by omega)) (run_one ?_)
    rw [step_loopIter ha hc hl hn hi (by omega), loopUop, if_pos]
    · rw [dataEffect_i]; rfl
    · rwa [dataEffect_pos, dataEffect_len, loopIter_len, loopIter_pos hi (by omega)]

/-- A whole loop, from position 0: the data effect at every position of the KeyBuffer. -/
theorem run_loop (ha : SequencerOnly s) (hc : encode i = .uop s.upc) (hl : i.isLoop = true)
    (hn : s.n ≤ 32) (hi : s.i = 0) : run s.len s = .next (nextUop (loopIter i s.len s)) := by
  obtain ⟨k, hk⟩ : ∃ k, s.len = k + 1 := ⟨14 + s.n, by rw [s.len_eq]; omega⟩
  have hlen := s.len_eq
  rw [hk]
  refine run_trans (run_loopIter ha hc hl hn hi (by omega)) (run_one ?_)
  rw [step_loopIter ha hc hl hn hi (by omega), loopUop, if_neg]
  · rfl
  · rw [dataEffect_pos, dataEffect_len, loopIter_len, loopIter_pos hi (by omega)]; omega

end run_loop

/-! ## A loop between two straight operations -/

/-- What a stage with one operation before its loop and one after it does. -/
def loopStage (i j k : Instr) (s : State) : State :=
  nextUop (dataEffect k (nextUop (loopIter j s.len (nextUop (dataEffect i s)))))

section loopStage
variable (i j k : Instr) (s : State)
@[simp] theorem loopStage_turns : (loopStage i j k s).turns = s.turns := by simp [loopStage]
@[simp] theorem loopStage_upc : (loopStage i j k s).upc = s.upc + 1 + 1 + 1 := by simp [loopStage]
@[simp] theorem loopStage_n : (loopStage i j k s).n = s.n := by simp [loopStage]
@[simp] theorem loopStage_len : (loopStage i j k s).len = s.len := by simp [loopStage]
end loopStage

theorem run_loopStage {i j k : Instr} {s : State} (ha : SequencerOnly s) (hn : s.n ≤ 32)
    (h : straightLine s.upc [i] = true ∧ (encode j = .uop (s.upc + 1) ∧ j.isLoop = true) ∧
      straightLine (s.upc + 1 + 1) [k] = true) :
    run (1 + s.len + 1) s = .next (loopStage i j k s) := by
  obtain ⟨hi, ⟨hj, hl⟩, hk⟩ := h
  let u := nextUop (dataEffect i s)
  have hturns : u.turns = [] := (dataEffect_turns i s).trans ha
  have hcode : u.upc = s.upc + 1 := by rw [← dataEffect_upc i s]; rfl
  have hun : u.n = s.n := dataEffect_n i s
  have hlen : u.len = s.len := dataEffect_len i s
  have hloop : run s.len u = .next (nextUop (loopIter j s.len u)) := by
    rw [← hlen]; exact run_loop hturns (by rwa [hcode]) hl (by rwa [hun]) rfl
  refine run_trans (run_trans (run_line (is := [i]) ha hn hi) hloop) (run_line (is := [k]) ?_ ?_ ?_)
  · exact (loopIter_turns ..).trans hturns
  · rwa [nextUop_n, loopIter_n, hun]
  · rwa [nextUop_upc, loopIter_upc, hcode]

end Sys2Proof.Machine
end

section
/-! PROOFS. The five stages of a run, the sequencer alone moving, each as a function of the KeyBuffer
(spec/41_assembler.md to spec/45_formatter.md); together a run computes ENCODE (spec/40_sequencer.md rule
R79). -/

namespace Sys2Proof.Machine

/-- Where the sequencer alone stands between two operations: `UPC`, the name length, the KeyBuffer. -/
structure StageAt (u : UopCode) (n : Nat) (bs : List Byte) (s : State) : Prop where
  alone : SequencerOnly s
  upc : s.upc = u
  posZero : s.i = 0
  n : s.n = n
  keyBuffer : s.keyBuffer = bs

theorem StageAt.len {u : UopCode} {n : Nat} {bs : List Byte} {s : State} (h : StageAt u n bs s) :
    s.len = 15 + n := congrArg (15 + ·) h.n

/-- A byte of the KeyBuffer. -/
theorem getD_keyBuffer {s : State} {a : Nat} (h : a < s.len) : s.keyBuffer.getD a 0 = s.bufAt a := by
  rw [State.keyBuffer, Store.getD_readBlock _ _ _ _ h, Nat.zero_add]; rfl

/-! ## Stage 1, the Layout Assembler -/

def assemblerUops : List Instr := [.asmClr, .asmTag, .asmLic, .asmBody]

theorem execLine_assembler_buf (s : State) : (execLine assemblerUops s).mem.buf =
    (Store.zeroed.writeBlock 0 [0x70, 0xFF, 0x39, 0x65, 0x03]).writeBlock 9 s.nameBytes := rfl

/-- The stage builds `ASSEMBLE` of the name (R88). -/
theorem execLine_assembler_keyBuffer (s : State) :
    (execLine assemblerUops s).keyBuffer = assemble s.nameBytes := by
  have hlen : (execLine assemblerUops s).len = 9 + (s.n + 6) := by
    show 15 + s.n = _; omega
  have hname : s.nameBytes.length = s.n := Store.length_readBlock ..
  have hheader : (Store.zeroed.writeBlock 0 [0x70, 0xFF, 0x39, 0x65, 0x03]).readBlock 0 (9 + (s.n + 6)) =
      [0x70, 0xFF, 0x39, 0x65, 0x03, 0, 0, 0, 0] ++ List.replicate (s.n + 6) 0 := by
    rw [Store.readBlock_writeBlock _ (by simp; omega), Store.readBlock_zeroed, List.replicate_add]
    rfl
  rw [State.keyBuffer, execLine_assembler_buf, hlen, Store.readBlock_writeBlock _ (by omega), hheader, hname,
    ← List.drop_drop]
  show [0x70, 0xFF, 0x39, 0x65, 0x03, 0, 0, 0, 0] ++ s.nameBytes ++ (List.replicate (s.n + 6) 0).drop s.n = _
  rw [List.drop_replicate, Nat.add_sub_cancel_left]
  rfl

theorem run_assembler {s : State} (ha : SequencerOnly s) (h1 : s.upc = 1) (hl : LenOk s) :
    run 4 s = .next (execLine assemblerUops s) ∧
      StageAt 5 s.n (assemble s.nameBytes) (execLine assemblerUops s) := by
  have hline : straightLine s.upc assemblerUops = true := by rw [h1]; decide
  refine ⟨run_line ha ((State.lenOk_iff s).mp hl).2 hline, (execLine_turns ..).trans ha, ?_, rfl, rfl,
    execLine_assembler_keyBuffer s⟩
  show s.upc + 1 + 1 + 1 + 1 = 5
  rw [h1]; rfl

/-- The operands of the Trailer Deriver in an assembled buffer are the first bytes of the name (R89). -/
theorem getD_assemble_body {name : List Byte} {a : Nat} (h : a < name.length) :
    (assemble name).getD (9 + a) 0 = nameByte name a := by
  rw [assemble, List.append_assoc, List.getD_append_right _ _ _ _ (by simp)]
  show List.getD _ (9 + a - 9) 0 = _
  rw [Nat.add_sub_cancel_left, List.getD_append _ _ _ _ h]
  rfl

theorem getD_assemble_trailer0 (name : List Byte) : (assemble name).getD (9 + name.length) 0 = 0 := by
  rw [assemble, List.append_assoc, List.getD_append_right _ _ _ _ (by simp)]
  show List.getD _ (9 + name.length - 9) 0 = _
  rw [Nat.add_sub_cancel_left, List.getD_append_right _ _ _ _ le_rfl, Nat.sub_self]
  rfl

section assembled
variable {u : UopCode} {name : List Byte} {s : State}

theorem StageAt.operands (h : StageAt u name.length (assemble name) s) (hn : 5 ≤ name.length) :
    s.b0 = nameByte name 0 ∧ s.b1 = nameByte name 1 ∧ s.b2 = nameByte name 2 ∧ s.b3 = nameByte name 3 ∧
      s.b4 = nameByte name 4 := by
  have hlen := h.len
  have hbody {a : Nat} (ha : a < 5) : s.bufAt (9 + a) = nameByte name a := by
    rw [← getD_keyBuffer (by omega), h.keyBuffer, getD_assemble_body (by omega)]
  exact ⟨hbody (a := 0) (by decide), hbody (a := 1) (by decide), hbody (a := 2) (by decide),
    hbody (a := 3) (by decide), hbody (a := 4) (by decide)⟩

theorem StageAt.trailer0 (h : StageAt u name.length (assemble name) s) : s.bufAt s.tr = 0 := by
  have hlen := h.len
  have htr : s.tr = 9 + name.length := congrArg (9 + ·) h.n
  rw [← getD_keyBuffer (by omega), h.keyBuffer, htr, getD_assemble_trailer0]

end assembled

/-! ## Stage 2, the Trailer Deriver -/

/-- The stage after TRL.DEN. -/
def trailerUops : List Instr := [.trlQ, .trlT1, .trlT2, .trlT3, .trlT4, .trlT5]

/-- What `TRAILER` (R100) is after its first byte, from the divisor. -/
def trailerTail (f : QuotFn) (b0 b1 b2 b3 b4 d : Byte) : List Byte :=
  [trailer1 b0 b1 b2 b3 b4, trailer2 (f b0 b1 d) b4, trailer3 b0 b1 b2 b3 b4, Params.t4Const,
    trailer5 b0 b1 b2 b3 b4]

/-- No byte of the trailer is an operand: each operation reads the operands as they stood. -/
theorem execLine_trailer_buf {s : State} (hn : 5 ≤ s.n) : (execLine trailerUops s).mem.buf =
    s.mem.buf.writeBlock (s.tr + 1) (trailerTail Config.qfn s.b0 s.b1 s.b2 s.b3 s.b4 s.denom) := by
  have htr := s.tr_eq
  simp only [execLine, trailerUops, List.foldl, dataEffect, State.b0, State.b1, State.b2, State.b3, State.b4,
    nextUop_mem, State.setBuf_buf, nextUop_bufAt, State.setBuf_bufAt, State.setQ_bufAt, nextUop_tr,
    State.setBuf_tr, State.setQ_tr, State.setQ_buf, nextUop_q, State.setBuf_q, State.setQ_q]
  simp (disch := omega) only [Store.read_write_ne]
  rfl

/-- With a nonzero divisor the trailer of the buffer is `TRAILER` of the operands. -/
theorem execLine_trailer_keyBuffer {s : State} (hn : 5 ≤ s.n) (h0 : s.bufAt s.tr = 0) :
    (execLine trailerUops s).keyBuffer = s.keyBuffer.take s.tr ++
      (0 :: trailerTail Config.qfn s.b0 s.b1 s.b2 s.b3 s.b4 s.denom) := by
  have hlen : s.len = s.tr + 1 + 5 := by rw [s.tr_eq, s.len_eq]; omega
  have hlen' : (execLine trailerUops s).len = s.tr + 1 + 5 := hlen
  have htake : s.keyBuffer.take s.tr = s.mem.buf.readBlock 0 s.tr := by
    rw [State.keyBuffer, hlen, Nat.add_assoc, Store.readBlock_add, List.take_left' (by simp)]
  rw [State.keyBuffer, execLine_trailer_buf hn, hlen', htake]
  refine (Store.readBlock_writeBlock_append _ _ _).trans ?_
  rw [Store.readBlock_succ, Nat.zero_add, show s.mem.buf.read s.tr = 0 from h0, List.append_assoc]
  rfl

theorem step_trlDen {s : State} (ha : SequencerOnly s) (h5 : s.upc = 5) :
    step s = .next (advance .trlDen (dataEffect .trlDen s)) := by
  rw [step_alone ha (i := .trlDen) (by rw [h5]; rfl)]
  exact execTrlDen_eq s

/-- The stage on an assembled buffer, when the guard accepts the name. -/
theorem run_trailer {s : State} {name trl : List Byte} (h : StageAt 5 name.length (assemble name) s)
    (hn : 5 ≤ name.length ∧ name.length ≤ 32)
    (htrl : trailer Config.qfn (nameByte name 0) (nameByte name 1) (nameByte name 2) (nameByte name 3)
      (nameByte name 4) = some trl) :
    ∃ t, run 7 s = .next t ∧ StageAt 12 name.length ((assemble name).take (9 + name.length) ++ trl) t := by
  obtain ⟨hb0, hb1, hb2, hb3, hb4⟩ := h.operands hn.1
  have htr : s.tr = 9 + name.length := congrArg (9 + ·) h.n
  have hsn := h.n
  rw [← hb0, ← hb1, ← hb2, ← hb3, ← hb4, trailer] at htrl
  split at htrl
  · cases htrl
  next hd =>
    obtain rfl := Option.some.inj htrl
    let u := nextUop (s.setDenom (divisor s.b0 s.b3))
    have hstep : step s = .next u := by
      rw [step_trlDen h.alone h.upc, advance, if_neg (fun hz => hd hz.2)]; rfl
    have hun : u.n = name.length := h.n
    have hline : straightLine u.upc trailerUops = true := by
      show straightLine (s.upc + 1) trailerUops = true
      rw [h.upc]; decide
    refine ⟨_, run_trans (run_one hstep) (run_line (is := trailerUops) h.alone (by omega) hline),
      (execLine_turns ..).trans h.alone, ?_, rfl, h.n, ?_⟩
    · show s.upc + 1 + 1 + 1 + 1 + 1 + 1 + 1 = 12
      rw [h.upc]; rfl
    · refine (execLine_trailer_keyBuffer (s := u) (by omega) h.trailer0).trans ?_
      rw [← h.keyBuffer, ← htr]; rfl

/-! ## Stage 3, the Checksum Computer -/

theorem loopIter_chkStep_mem (k : Nat) (s : State) : (loopIter .chkStep k s).mem = s.mem := by
  induction k with
  | zero => rfl
  | succ k ih => exact ih

/-- The loop folds the bytes from index 0 up into the hash (R110). -/
theorem loopIter_chkStep_h {k : Nat} {s : State} (hi : s.i = 0) (hk : k < 64) :
    (loopIter .chkStep k s).h = (s.mem.buf.readBlock 0 k).foldl chkFold s.h := by
  induction k with
  | zero => rfl
  | succ k ih =>
    show chkFold (loopIter .chkStep k s).h
      ((loopIter .chkStep k s).mem.buf.read (loopIter .chkStep k s).pos) = _
    rw [ih (by omega), loopIter_chkStep_mem, loopIter_pos hi (by omega), Store.readBlock_succ,
      List.foldl_append, Nat.zero_add]
    rfl

/-- The stage puts the checksum of the KeyBuffer in its field (R110). -/
theorem run_checksum {s : State} {n : Nat} {bs : List Byte} (h : StageAt 12 n bs s) (hn : n ≤ 32) :
    ∃ t, run (1 + s.len + 1) s = .next t ∧ StageAt 15 n (withChecksum bs) t := by
  have hsn := h.n
  have hlen := s.len_eq
  have hrun : run (1 + s.len + 1) s = .next (loopStage .chkInit .chkStep .chkWr s) :=
    run_loopStage h.alone (by omega) (by rw [h.upc]; decide)
  refine ⟨_, hrun, (loopStage_turns ..).trans h.alone, ?_, rfl, (loopStage_n ..).trans hsn, ?_⟩
  · rw [loopStage_upc, h.upc]; rfl
  · have hh : (loopIter .chkStep s.len (nextUop (s.setH 0))).h = checksum s.keyBuffer :=
      loopIter_chkStep_h rfl (by omega)
    rw [State.keyBuffer, loopStage_len]
    show ((loopIter .chkStep s.len (nextUop (s.setH 0))).mem.buf.writeBlock 5
      (le32 (loopIter .chkStep s.len (nextUop (s.setH 0))).h)).readBlock 0 s.len = _
    rw [Store.readBlock_writeBlock _ (by rw [length_le32]; omega), hh, loopIter_chkStep_mem, length_le32]
    show s.keyBuffer.take 5 ++ _ ++ s.keyBuffer.drop 9 = _
    rw [h.keyBuffer]; rfl

/-! ## Stage 4, the Obfuscation Encoder -/

/-- The loop has transformed the bytes below its position, and no other (R117). -/
theorem loopIter_obfStep_bufAt {k : Nat} {s : State} (hi : s.i = 0) (hk : k < 64) (a : Nat) :
    (loopIter .obfStep k s).bufAt a = if a < k then obf a (s.bufAt a) else s.bufAt a := by
  induction k generalizing a with
  | zero => rfl
  | succ k ih =>
    have ih := ih (by omega)
    show Store.read (Store.write _ (loopIter .obfStep k s).pos
      (obf (loopIter .obfStep k s).pos ((loopIter .obfStep k s).bufAt (loopIter .obfStep k s).pos))) a = _
    rw [loopIter_pos hi (by omega), Store.read_write, ih k, if_neg (Nat.lt_irrefl k)]
    by_cases ha : a = k
    · rw [if_pos ha, if_pos (by omega), ha]
    · rw [if_neg ha]
      refine (ih a).trans (if_congr ?_ rfl rfl)
      omega

/-- The stage obfuscates the KeyBuffer (R113). -/
theorem run_obfuscation {s : State} {n : Nat} {bs : List Byte} (h : StageAt 15 n bs s) (hn : n ≤ 32) :
    ∃ t, run s.len s = .next t ∧ StageAt 16 n (obfuscate bs) t := by
  have hsn := h.n
  have hlen := s.len_eq
  have hturns : (loopIter .obfStep s.len s).turns = [] := (loopIter_turns ..).trans h.alone
  refine ⟨_, run_loop (i := .obfStep) h.alone (by rw [h.upc]; rfl) rfl (by omega) h.posZero, hturns, ?_, rfl,
    (loopIter_n ..).trans h.n, ?_⟩
  · show (loopIter .obfStep s.len s).upc + 1 = 16
    rw [loopIter_upc, h.upc]; rfl
  · show (loopIter .obfStep s.len s).mem.buf.readBlock 0 (loopIter .obfStep s.len s).len = _
    rw [← h.keyBuffer, loopIter_len]
    refine List.ext_getElem (by simp [obfuscate, State.keyBuffer]) fun a ha _ => ?_
    have hbyte := loopIter_obfStep_bufAt (k := s.len) h.posZero (by omega) a
    rw [if_pos (by simpa using ha)] at hbyte
    simpa [obfuscate, State.keyBuffer, Store.readBlock, State.bufAt] using hbyte

/-! ## Stage 5, the Hex Formatter -/

theorem loopIter_fmtByte_buf (k : Nat) (s : State) : (loopIter .fmtByte k s).mem.buf = s.mem.buf := by
  induction k with
  | zero => rfl
  | succ k ih => exact ih

/-- The loop lays down the digits of the bytes from index 0 up, after the bracket (R124). -/
theorem loopIter_fmtByte_tok {k : Nat} {s : State} (hi : s.i = 0) (hk : k < 64) :
    (loopIter .fmtByte k s).mem.tok.readBlock 0 (1 + 2 * k) =
      s.mem.tok.readBlock 0 1 ++ (s.mem.buf.readBlock 0 k).flatMap hexPair := by
  induction k with
  | zero => simp [loopIter, Store.readBlock]
  | succ k ih =>
    have hpos := loopIter_pos (i := .fmtByte) hi (show k < 64 by omega)
    have hbyte : (loopIter .fmtByte k s).bufAt k = s.mem.buf.read k := by
      rw [State.bufAt, loopIter_fmtByte_buf]
    show (Store.writeBlock _ (1 + 2 * (loopIter .fmtByte k s).pos) (hexPair ((loopIter .fmtByte k s).bufAt
      (loopIter .fmtByte k s).pos))).readBlock 0 (1 + 2 * k + 2) = _
    rw [hpos, hbyte]
    refine (Store.readBlock_writeBlock_append _ _ _).trans ?_
    rw [ih (by omega), Store.readBlock_succ s.mem.buf, List.flatMap_append, List.append_assoc, Nat.zero_add]
    simp

/-- The stage leaves `FORMAT` of the KeyBuffer in `TOK` (R126), and the run is DONE. -/
theorem run_formatter {s : State} {n : Nat} {bs : List Byte} (h : StageAt 16 n bs s) (hn : n ≤ 32) :
    ∃ t, run (1 + s.len + 1) s = .next t ∧ t.upc = 19 ∧ t.tlen.toNat = 2 * s.len + 2 ∧
      t.token = format bs := by
  have hsn := h.n
  have hlen := s.len_eq
  have hrun : run (1 + s.len + 1) s = .next (loopStage .fmtOpen .fmtByte .fmtClose s) :=
    run_loopStage h.alone (by omega) (by rw [h.upc]; decide)
  let u := nextUop (dataEffect .fmtOpen s)
  have hopen : u.mem.tok.readBlock 0 1 = [0x3C] := Store.readBlock_writeBlock_same s.mem.tok 0 [0x3C]
  have hclose : (loopStage .fmtOpen .fmtByte .fmtClose s).mem.tok =
      (loopIter .fmtByte s.len u).mem.tok.writeBlock (2 * s.len + 1) [0x3E] := by
    show (loopIter .fmtByte s.len u).mem.tok.write (2 * (loopIter .fmtByte s.len u).len + 1) 0x3E = _
    rw [loopIter_len]; rfl
  have htlen : (loopStage .fmtOpen .fmtByte .fmtClose s).tlen.toNat = 2 * s.len + 2 := by
    show (BitVec.ofNat 7 (2 * (loopIter .fmtByte s.len u).len + 2)).toNat = _
    rw [BitVec.toNat_ofNat, loopIter_len, show u.len = s.len from rfl]; omega
  refine ⟨_, hrun, by rw [loopStage_upc, h.upc]; rfl, htlen, ?_⟩
  rw [State.token, htlen, hclose]
  refine (Store.readBlock_writeBlock_append _ (2 * s.len + 1) [0x3E]).trans ?_
  rw [Nat.add_comm (2 * s.len), loopIter_fmtByte_tok rfl (by omega), hopen]
  show 0x3C :: s.keyBuffer.flatMap hexPair ++ [0x3E] = _
  rw [h.keyBuffer]; rfl

/-! ## The whole run -/

theorem trailer_eq_none_iff {f : QuotFn} {b0 b1 b2 b3 b4 : Byte} :
    trailer f b0 b1 b2 b3 b4 = none ↔ divisor b0 b3 = 0 := by
  simp [trailer]

theorem encodeName_eq_none_iff {f : QuotFn} {name : List Byte} :
    encodeName f name = none ↔ guardFails name = true := by
  rw [encodeName, Option.map_eq_none_iff, trailer_eq_none_iff, guardFails, beq_iff_eq]

section run
variable {s : State}

/-- A run of a name the guard rejects, from ASM.CLR: InvalidName, no token. -/
theorem run_invalidName (ha : SequencerOnly s) (h1 : s.upc = 1) (hl : LenOk s)
    (hg : guardFails s.nameBytes = true) :
    ∃ t, run 5 s = .next t ∧ t.upc = 20 ∧ t.tlen = s.tlen := by
  obtain ⟨hrun, hstage⟩ := run_assembler ha h1 hl
  have hname : s.nameBytes.length = s.n := Store.length_readBlock ..
  rw [← hname] at hstage
  obtain ⟨hb0, -, -, hb3, -⟩ := hstage.operands (by rw [hname]; exact ((State.lenOk_iff s).mp hl).1)
  have hstep := step_trlDen hstage.alone hstage.upc
  rw [advance, if_pos] at hstep
  · exact ⟨_, run_trans hrun (run_one hstep), rfl, rfl⟩
  · refine ⟨rfl, ?_⟩
    show divisor (execLine assemblerUops s).b0 (execLine assemblerUops s).b3 = 0
    rw [hb0, hb3]
    exact beq_iff_eq.mp hg

/-- A run of a name the guard accepts, from ASM.CLR: DONE, with ENCODE of the name (R79). -/
theorem run_token (ha : SequencerOnly s) (h1 : s.upc = 1) (hl : LenOk s) {tok : List Byte}
    (htok : encodeName Config.qfn s.nameBytes = some tok) :
    ∃ t, run (15 + 3 * s.len) s = .next t ∧ t.upc = 19 ∧ t.tlen.toNat = 2 * s.len + 2 ∧ t.token = tok := by
  have hname : s.nameBytes.length = s.n := Store.length_readBlock ..
  have hn := (State.lenOk_iff s).mp hl
  have hlen := s.len_eq
  rw [← hname] at hn hlen
  obtain ⟨trl, htrl, rfl⟩ := Option.map_eq_some_iff.mp htok
  obtain ⟨hrun1, h5⟩ := run_assembler ha h1 hl
  rw [← hname] at h5
  obtain ⟨t2, hrun2, h12⟩ := run_trailer h5 hn htrl
  obtain ⟨t3, hrun3, h15⟩ := run_checksum h12 hn.2
  obtain ⟨t4, hrun4, h16⟩ := run_obfuscation h15 hn.2
  obtain ⟨t5, hrun5, hupc, htlen, htoken⟩ := run_formatter h16 hn.2
  have hrun := run_trans (run_trans (run_trans (run_trans hrun1 hrun2) hrun3) hrun4) hrun5
  rw [h12.len, h15.len, h16.len, ← hlen] at hrun
  rw [h16.len, ← hlen] at htlen
  exact ⟨t5, by rw [← hrun]; congr 1; omega, hupc, htlen, htoken⟩

end run

end Sys2Proof.Machine
end

section
/-! PROOFS. The run theorem (spec/40_sequencer.md rule R80): a run with the host's moves interleaved is the
sequencer's own, which computes ENCODE in `runSteps` steps. -/

namespace Sys2Proof.Machine

theorem execStart_accepted {s : State} (hq : Quiescent s) (hl : LenOk s) :
    execStart s = .next (respond (beginRun s) 0) := by
  have hb : s.busy = false := hq
  have hlen : s.lenOk = true := hl
  simp [execStart, hb, hlen]

/-- A name is rejected in 5 steps, and encoded in `15 + 3*LEN` (R80). -/
theorem runSteps_of_encodeName_none {f : QuotFn} {name : List Byte} (h : encodeName f name = none) :
    runSteps name = 5 := if_pos (encodeName_eq_none_iff.mp h)

theorem runSteps_of_encodeName_some {f : QuotFn} {s : State} {tok : List Byte}
    (h : encodeName f s.nameBytes = some tok) : runSteps s.nameBytes = 15 + 3 * s.len := by
  have hg : ¬ guardFails s.nameBytes = true := by
    rw [← encodeName_eq_none_iff (f := f), h]; nofun
  rw [runSteps, if_neg hg, State.nameBytes, Store.length_readBlock]; rfl

section run
variable {s : State} {ts : List Turn}

/-- The run an accepted START begins, by ENCODE of the name. -/
theorem run_started_none (hl : LenOk s) (h : encodeName Config.qfn s.nameBytes = none) :
    ∃ t, run (runSteps s.nameBytes) (started s) = .next t ∧ t.upc = 20 ∧ t.tlen = 0 := by
  rw [runSteps_of_encodeName_none h]
  exact run_invalidName (s := started s) rfl rfl hl (encodeName_eq_none_iff.mp h)

theorem run_started_some (hl : LenOk s) {tok : List Byte} (h : encodeName Config.qfn s.nameBytes = some tok) :
    ∃ t, run (runSteps s.nameBytes) (started s) = .next t ∧ t.upc = 19 ∧ t.tlen.toNat = 2 * s.len + 2 ∧
      t.token = tok := by
  rw [runSteps_of_encodeName_some h]
  exact run_token (s := started s) rfl rfl hl h

/-- An accepted START before other moves; but for these its run begins as `started`. -/
theorem step_start_before (hq : Quiescent s) (hl : LenOk s) (ht : s.turns = .host startWord :: ts) :
    ∃ u, step s = .next u ∧ u.turns = ts ∧ quiet u = started s :=
  ⟨_, (step_host (i := .start) ht rfl).trans (execStart_accepted (s := s.setTurns ts) hq hl), rfl, rfl⟩

end run

/-- Settles O56: before the sequencer's last move the interleaved run is an unfinished one; with it, it ends as
the sequencer's alone, stage by stage the computation of ENCODE. -/
theorem runComputesEncode : Obligations.RunComputesEncode := by
  intro s ts hq hl hr ht hlast hcount
  obtain ⟨init, rfl⟩ := List.getLast?_eq_some_iff.mp hlast
  have hrinit : NoReset init := hr.of_subset (List.subset_append_left ..)
  obtain ⟨u, hstart, hturns, hquiet⟩ := step_start_before hq hl ht
  have hrunning : Running (quiet u) := hquiet ▸ running_started hl
  have hleft : stepsLeft (quiet u) = runSteps s.nameBytes := hquiet ▸ stepsLeft_started s
  rw [List.count_append, List.count_singleton_self] at hcount
  refine ⟨fun k hk => ?_, ?_⟩
  · have hk' : k ≤ init.length := by simpa [Nat.lt_succ_iff] using hk
    rw [run_succ_next hstart]
    exact run_interleaved_busy hturns hrinit hrunning (by omega) hk'
  · obtain ⟨t, hrun, hnil, hend⟩ := run_interleaved_end hturns hrinit hrunning (by omega)
    obtain ⟨v, hv, -, -, hname, hnlen⟩ := running_run hrunning le_rfl
    obtain rfl : quiet t = v := Host.Outcome.next.inj (hend.symm.trans hv)
    rw [hquiet] at hname hnlen
    rw [hleft, hquiet] at hend
    have hnone (h : encodeName Config.qfn s.nameBytes = none) : t.upc = 20 ∧ t.tlen = 0 := by
      obtain ⟨v, hv, hvt⟩ := run_started_none hl h
      obtain rfl : quiet t = v := Host.Outcome.next.inj (hend.symm.trans hv)
      exact hvt
    have hsome (tok : List Byte) (h : encodeName Config.qfn s.nameBytes = some tok) :
        t.upc = 19 ∧ t.tlen.toNat = 2 * s.len + 2 ∧ t.token = tok := by
      obtain ⟨v, hv, hvt⟩ := run_started_some hl h
      obtain rfl : quiet t = v := Host.Outcome.next.inj (hend.symm.trans hv)
      exact hvt
    refine ⟨t, ?_, hnil, ?_, fun a => congrArg (Store.read · a) hname, hnlen, fun h => ?_, fun tok h => ?_⟩
    · rw [List.length_append, List.length_singleton, run_succ_next hstart, hrun]
    · rw [← Bool.not_eq_true, t.busy_iff]
      cases h : encodeName Config.qfn s.nameBytes with
      | none => rw [(hnone h).1]; decide
      | some tok => rw [(hsome tok h).1]; decide
    · exact ⟨(hnone h).1, (hnone h).2, runSteps_of_encodeName_none h⟩
    · obtain ⟨hupc, htlen, htok⟩ := hsome tok h
      exact ⟨hupc, htlen, htok, runSteps_of_encodeName_some h⟩

end Sys2Proof.Machine
end

section
/-! PROOFS. How the sequencer moves `UPC` and `I` (spec/40_sequencer.md rule R74). -/

namespace Sys2Proof.Machine

/-- The guard of R131 on the body bytes is the divisor's being 0. -/
theorem guardFails_iff (s : State) : GuardFails s ↔ divisor s.b0 s.b3 = 0 := by
  have h0 := s.b0.isLt
  have h3 := s.b3.isLt
  rw [GuardFails, ← BitVec.toNat_inj]
  show _ ↔ (s.b0 - s.b3 + 1).toNat = 0
  rw [BitVec.toNat_add, BitVec.toNat_sub]
  simp; omega

/-- A sequencer's turn at a micro-operation that answers has done its data effect and its move. -/
theorem step_sequencer_next {s t : State} {ts : List Turn} (ht : s.turns = .sequencer :: ts)
    (hb : s.busy = true) (h : step s = .next t) :
    ∃ i, encode i = .uop s.upc ∧ t = advance i (dataEffect i (s.setTurns ts)) ∧
      (i.isLoop = true → s.pos < 47) := by
  obtain ⟨h1, h18⟩ := s.busy_iff.mp hb
  obtain ⟨i, hd, hc⟩ := decodeUop_of_busy h1 h18
  rw [step_sequencer ht hd] at h
  exact ⟨i, hc, exec_uop_next hc h⟩

/-- Settles O8: the three moves of `advance`, told apart by the guard and the loop condition. -/
theorem sequencerMovesUpcAndI : Obligations.SequencerMovesUpcAndI := by
  intro s t ts ht h1 h18 hstep
  obtain ⟨i, hc, rfl, hpos⟩ := step_sequencer_next ht (s.busy_iff.mpr ⟨h1, h18⟩) hstep
  have hloop : i.isLoop = true ↔ s.inLoop :=
    (isLoop_iff_of_encode hc).trans s.inLoop_iff_toNat.symm
  have hguard : i = .trlDen ∧ (dataEffect i (s.setTurns ts)).denom = 0 ↔ s.upc = 5 ∧ GuardFails s := by
    rw [eq_trlDen_iff_of_encode hc, guardFails_iff, show s.upc = 5 ↔ s.upc.toNat = 5 from BitVec.toNat_inj.symm]
    refine and_congr_right fun h5 => ?_
    obtain rfl := (eq_trlDen_iff_of_encode hc).mpr h5
    rfl
  rcases advance_cases i (dataEffect i (s.setTurns ts)) with ⟨hi, hd, heq⟩ | ⟨hl, hp, heq⟩ | ⟨hd, hp, heq⟩
  · have hg := hguard.mp ⟨hi, hd⟩
    rw [heq]
    exact ⟨fun _ => ⟨rfl, rfl⟩, fun hn => absurd hg hn⟩
  · rw [dataEffect_pos, dataEffect_len] at hp
    have hnot : ¬ (s.upc = 5 ∧ GuardFails s) := by
      rw [← hguard]; rintro ⟨rfl, -⟩; cases hl
    have hin : s.inLoop ∧ s.pos + 1 < s.len := ⟨hloop.mp hl, hp⟩
    have hi : ((dataEffect i (s.setTurns ts)).setI ((dataEffect i (s.setTurns ts)).i + 1)).pos = s.pos + 1 := by
      have h47 := hpos hl
      rw [pos_setI_add_one (by rw [dataEffect_pos, State.setTurns_pos]; omega), dataEffect_pos,
        State.setTurns_pos]
    rw [heq]
    exact ⟨fun hg => absurd hg hnot, fun _ => ⟨fun _ => ⟨dataEffect_upc .., hi⟩, fun hn => absurd hin hn⟩⟩
  · rw [dataEffect_pos, dataEffect_len] at hp
    rw [hguard] at hd
    have hout : ¬ (s.inLoop ∧ s.pos + 1 < s.len) := fun ⟨hl, hlt⟩ =>
      absurd (hp (hloop.mpr hl)) (Nat.not_le.mpr hlt)
    rw [heq]
    refine ⟨fun hg => absurd hg hd, fun _ => ⟨fun hin => absurd hin hout, fun _ => ⟨?_, rfl⟩⟩⟩
    rw [nextUop_upc, dataEffect_upc]
    exact upc_add_one_toNat h18

end Sys2Proof.Machine
end

section
/-! PROOFS. The host's commands and the reset pin (spec/40_sequencer.md rules R68 to R77). -/

namespace Sys2Proof.Machine

/-! ## Frames -/

theorem respond_keepsAllBut (s : State) (v : PortWord) : KeepsAllBut [.response] s (respond s v) := by
  intro e he
  cases e with
  | name | buf | tok => exact fun _ => rfl
  | nlen | h | denom | q | i | upc | tlen | turns => rfl
  | response => simp at he

/-- Every element has its reset value, whatever is scheduled and whatever is returned. -/
theorem resetElements_agreeOn (s : State) (v : PortWord) :
    AgreeOn [.name, .nlen, .buf, .h, .denom, .q, .i, .upc, .tok, .tlen] State.reset
      (respond (resetElements s) v) := by
  intro e he
  cases e with
  | name | buf | tok => exact fun _ => rfl
  | nlen | h | denom | q | i | upc | tlen => rfl
  | response | turns => simp at he

theorem resetElements_status (s : State) (v : PortWord) : (respond (resetElements s) v).status = 0 :=
  show State.reset.status = 0 from rfl

/-! ## RESET, NOP -/

/-- Settles O10: RESET and the pin both answer the reset elements, with 0. -/
theorem resetCommandResetsEveryElement : Obligations.ResetCommandResetsEveryElement :=
  ⟨rfl, fun s => ⟨_, rfl, rfl, rfl, resetElements_agreeOn s 0, resetElements_status s 0⟩,
    fun _ _ ht => ⟨_, step_resetPin ht, rfl, rfl, resetElements_agreeOn _ 0, resetElements_status _ 0⟩⟩

/-- Settles O11: NOP and a reserved word do the same, they return 0. -/
theorem nopChangesNothing : Obligations.NopChangesNothing :=
  ⟨rfl, fun s => ⟨_, rfl, rfl, respond_keepsAllBut s 0⟩, fun _ _ hd _ _ ht => step_reserved ht hd⟩

/-! ## LDLEN, LDNAME -/

/-- Fields that do not overlap add up. -/
theorem toNat_or_of_lt {c x : PortWord} {m j : Nat} (hc : c.toNat = m * 2 ^ j) (hx : x.toNat < 2 ^ j) :
    (c ||| x).toNat = c.toNat + x.toNat := by
  rw [BitVec.toNat_or, hc, ← Nat.shiftLeft_eq, Nat.shiftLeft_add_eq_or_of_lt hx]

/-- The word of a code with a field of low bits. -/
theorem cmdWord_eq_or {code : BitVec 3} {c : PortWord} {k : Nat} (hc : c.toNat = code.toNat * 2 ^ 13)
    (hk : k < 256) : cmdWord code 0 (BitVec.ofNat 8 k) = c ||| BitVec.ofNat 16 k := by
  have hk16 : (BitVec.ofNat 16 k).toNat = k := by rw [BitVec.toNat_ofNat]; omega
  rw [← BitVec.toNat_inj, cmdWord_toNat, toNat_or_of_lt hc (by omega), hc, hk16, BitVec.toNat_ofNat]
  simp; omega

theorem cmdWord_ldname_eq_or {idx : Nat} (data : Byte) (h : idx < 32) :
    cmdWord 0b010 (BitVec.ofNat 5 idx) data = 0x4000 ||| (BitVec.ofNat 16 idx <<< 8) ||| data.setWidth 16 := by
  have hidx : (BitVec.ofNat 16 idx <<< 8).toNat = 256 * idx := by
    rw [BitVec.toNat_shiftLeft, BitVec.toNat_ofNat, Nat.shiftLeft_eq]; omega
  have hdata : (data.setWidth 16).toNat = data.toNat := BitVec.toNat_setWidth_of_le (by decide)
  have hcode : (0x4000 ||| (BitVec.ofNat 16 idx <<< 8) : PortWord).toNat = (64 + idx) * 2 ^ 8 := by
    rw [toNat_or_of_lt (m := 2) (j := 13) rfl (by omega), hidx]; simp; omega
  rw [← BitVec.toNat_inj, cmdWord_toNat, toNat_or_of_lt hcode (by rw [hdata]; exact data.isLt), hcode, hdata,
    BitVec.toNat_ofNat]
  simp; omega

/-- Settles O12: the word is LDLEN's encoding; BUSY decides between the two answers. -/
theorem ldlenSetsLengthUnlessBusy : Obligations.LdlenSetsLengthUnlessBusy := by
  intro len hlen
  refine ⟨?_, fun s => ?_⟩
  · rw [← cmdWord_eq_or (code := 0b001) rfl (by omega)]
    exact Laws.RoundTrip.ldlen len (decide_eq_true hlen)
  · cases hb : s.busy with
    | true => exact ⟨_, if_pos hb, rfl, nofun, fun _ => respond_keepsAllBut s 0⟩
    | false =>
      refine ⟨_, if_neg (by simp [hb]), rfl, fun _ => ⟨?_, fun e he => ?_⟩, nofun⟩
      · exact (BitVec.toNat_ofNat ..).trans (Nat.mod_eq_of_lt hlen)
      · cases e with
        | name | buf | tok => exact fun _ => rfl
        | h | denom | q | i | upc | tlen | turns => rfl
        | nlen | response => simp at he

/-- Settles O13: the word is LDNAME's encoding; BUSY decides between the two answers. -/
theorem ldnameWritesByteUnlessBusy : Obligations.LdnameWritesByteUnlessBusy := by
  intro idx data hidx
  refine ⟨?_, fun s => ?_⟩
  · rw [← cmdWord_ldname_eq_or data hidx]
    exact Laws.RoundTrip.ldname idx data (decide_eq_true hidx)
  · cases hb : s.busy with
    | true => exact ⟨_, if_pos hb, rfl, nofun, fun _ => respond_keepsAllBut s 0⟩
    | false =>
      have hexec : exec (.ldname idx data) s =
          .next (respond (s.setName (s.mem.name.write idx data)) 0) := by
        rw [exec, execLdname, if_neg (by simp [hb]), storeName_inside data hidx]; rfl
      refine ⟨_, hexec, rfl, fun _ => ⟨Store.read_write_same .., fun a ha => Store.read_write_ne _ _ ha,
        fun e he => ?_⟩, nofun⟩
      cases e with
      | buf | tok => exact fun _ => rfl
      | nlen | h | denom | q | i | upc | tlen | turns => rfl
      | name | response => simp at he

/-! ## START -/

theorem beginRun_status (s : State) (v : PortWord) : (respond (beginRun s) v).status = 0b001 :=
  show (State.reset.setUpc 1).status = 0b001 from rfl

/-- Settles O14: START by BUSY and the length; the state it begins a run in. -/
theorem startBeginsRun : Obligations.StartBeginsRun := by
  refine ⟨rfl, fun s hq hl => ?_, fun s hb => ⟨_, if_pos hb, rfl, respond_keepsAllBut s 0⟩⟩
  refine ⟨_, execStart_accepted hq hl, rfl, rfl, rfl, rfl, beginRun_status s 0, fun e he => ?_⟩
  cases e with
  | name | buf | tok => exact fun _ => rfl
  | nlen | h | denom | q | turns => rfl
  | i | upc | tlen | response => simp at he

/-- Settles O15: not BUSY, an illegal length falls through to the refusal. -/
theorem startOutsideLengthIsRefused : Obligations.StartOutsideLengthIsRefused := by
  intro s hq hn
  have hb : ¬ s.busy = true := by rw [show s.busy = false from hq]; nofun
  have hl : ¬ s.lenOk = true := by rw [s.lenOk_iff, State.n]; omega
  rw [exec, execStart, if_neg hb, if_neg hl]

/-! ## RDTOK, RDSTAT -/

/-- Settles O16: in DONE below `TLEN` the index is one `TOK` has, since `TLEN` is at most 96. -/
theorem rdtokAnswersCharacterInDone : Obligations.RdtokAnswersCharacterInDone := by
  intro tidx htidx
  refine ⟨?_, fun s htlen => ?_⟩
  · rw [← cmdWord_eq_or (code := 0b100) rfl (by omega)]
    exact Laws.RoundTrip.rdtok tidx (decide_eq_true htidx)
  · have hcond : (s.isDone && decide (tidx < s.tlen.toNat)) = true ↔ s.upc = 19 ∧ tidx < s.tlen.toNat := by
      rw [Bool.and_eq_true, s.isDone_iff, decide_eq_true_eq]
    by_cases hread : s.upc = 19 ∧ tidx < s.tlen.toNat
    · have hexec : exec (.rdtok tidx) s = .next (respond s ((s.tokAt tidx).setWidth 16)) := by
        rw [exec, execRdtok, if_pos (hcond.mpr hread), loadTok_inside _ (by omega)]
      refine ⟨_, hexec, fun _ => ?_, fun h => absurd hread h, respond_keepsAllBut s _⟩
      exact BitVec.toNat_setWidth_of_le (by decide)
    · exact ⟨_, if_neg (fun h => hread (hcond.mp h)), fun h => absurd h hread, fun _ => rfl,
        respond_keepsAllBut s 0⟩

/-- Settles O17: the response word and `STATUS` as numbers, bit by bit. -/
theorem rdstatAnswersStatus : Obligations.RdstatAnswersStatus := by
  refine ⟨rfl, fun s => ⟨_, rfl, ?_, respond_keepsAllBut s _⟩⟩
  have hbit (b : Bool) : b.toNat = if b = true then 1 else 0 := by cases b <;> rfl
  rw [respond_response, statusWord_toNat, status_toNat, hbit s.isErr, hbit s.isDone, hbit s.busy, State.tlenVis,
    apply_ite BitVec.toNat]
  simp only [s.isErr_iff, s.isDone_iff, s.busy_iff]
  rw [← Nat.add_assoc, ← Nat.add_assoc]; rfl

/-! ## Commands during a run -/

/-- A micro-operation leaves the name and its length as they are. -/
theorem advance_dataEffect_name (i : Instr) (s : State) :
    (advance i (dataEffect i s)).nlen = s.nlen ∧ ∀ a, (advance i (dataEffect i s)).nameAt a = s.nameAt a := by
  simp [State.nameAt]

/-- Settles O18: `step_host_busy` for the host's words, RESET apart; a step of the sequencer has only its data
effect and its move. -/
theorem commandsDuringRunChangeNothing : Obligations.CommandsDuringRunChangeNothing := by
  refine ⟨fun s w ts hb ht hw => ⟨_, step_host_busy hb ht hw, rfl, respond_setTurns_keepsAllBut s ts _, rfl⟩,
    fun s ts _ ht => ⟨_, step_host (i := .reset) ht rfl, rfl, rfl, resetElements_agreeOn _ 0⟩,
    fun s t hb hreset hpin hstep => ?_⟩
  rw [State.nextTurn] at hreset hpin
  cases hturns : s.turns with
  | nil =>
    obtain ⟨h1, h18⟩ := s.busy_iff.mp hb
    obtain ⟨i, hd, hc⟩ := decodeUop_of_busy h1 h18
    rw [step_alone hturns hd] at hstep
    rw [(exec_uop_next hc hstep).1]
    exact advance_dataEffect_name i s
  | cons turn ts =>
    rw [hturns] at hreset hpin
    cases turn with
    | host w =>
      have hw : w ≠ resetWord := fun h => hreset (congrArg Turn.host h)
      rw [step_host_busy hb hturns hw] at hstep
      cases hstep
      exact ⟨rfl, fun _ => rfl⟩
    | sequencer =>
      obtain ⟨i, -, rfl, -⟩ := step_sequencer_next hturns hb hstep
      exact advance_dataEffect_name i (s.setTurns ts)
    | resetPin => exact absurd rfl hpin

end Sys2Proof.Machine
end

section
/-! PROOFS. The micro-operations of the Layout Assembler, each a write of `BUF` and `next`
(spec/41_assembler.md rules R84 to R87). -/

namespace Sys2Proof.Machine

/-- Reading inside a block just written. -/
theorem Store.read_writeBlock_inside (vs : List Byte) (m : Store) (a : Nat) {k : Nat} (h : k < vs.length) :
    (m.writeBlock a vs).read (a + k) = vs.getD k 0 := by
  rw [Store.read_writeBlock, if_pos (by omega), Nat.add_sub_cancel_left]

/-- A write of `BUF` followed by `next` changes `BUF`, `UPC` and `I` alone. -/
theorem nextUop_setBuf_keepsAllBut (s : State) (m : Store) :
    KeepsAllBut [.buf, .upc, .i] s (nextUop (s.setBuf m)) := by
  intro e he
  cases e with
  | name | tok => exact fun _ => rfl
  | nlen | h | denom | q | tlen | response | turns => rfl
  | buf | upc | i => simp at he

/-- Settles O20: the buffer written is the zeroed one. -/
theorem asmClrZeroesBuffer : Obligations.AsmClrZeroesBuffer :=
  ⟨rfl, fun s => ⟨_, rfl, fun a _ => Store.read_zeroed a, rfl, rfl, nextUop_setBuf_keepsAllBut s _⟩⟩

/-- Settles O21: a block of one byte at index 0. -/
theorem asmTagWritesPrefix : Obligations.AsmTagWritesPrefix := by
  refine ⟨rfl, fun s => ⟨_, rfl, ?_, fun a ha => ?_, rfl, rfl, nextUop_setBuf_keepsAllBut s _⟩⟩
  · exact Store.read_writeBlock_inside (k := 0) [Params.tag] s.mem.buf 0 (by decide)
  · exact Store.read_writeBlock_outside [Params.tag] _ (.inr (Nat.pos_of_ne_zero ha))

/-- Settles O22: the license word's block of four bytes at index 1, byte by byte. -/
theorem asmLicWritesLicense : Obligations.AsmLicWritesLicense := by
  refine ⟨rfl, rfl, fun s => ?_⟩
  have hbyte {k : Nat} (hk : k < 4) :
      (s.mem.buf.writeBlock 1 (le32 Params.lic32)).read (1 + k) = (le32 Params.lic32).getD k 0 :=
    Store.read_writeBlock_inside _ _ _ hk
  exact ⟨_, rfl, hbyte (k := 0) (by decide), hbyte (k := 1) (by decide), hbyte (k := 2) (by decide),
    hbyte (k := 3) (by decide), fun a ha => Store.read_writeBlock_outside _ _ ha, rfl, rfl,
    nextUop_setBuf_keepsAllBut s _⟩

/-- Settles O23: with the length in range ASM.BODY answers the block of the name's bytes at index 9. -/
theorem asmBodyCopiesName : Obligations.AsmBodyCopiesName := by
  refine ⟨rfl, fun s hn => ?_⟩
  have hlen : s.nameBytes.length = s.n := Store.length_readBlock ..
  have hname {a : Nat} (ha : a < s.n) : s.nameBytes.getD a 0 = s.nameAt a := by
    rw [State.nameBytes, Store.getD_readBlock _ _ _ _ ha, Nat.zero_add]; rfl
  exact ⟨_, execAsmBody_inside hn,
    fun a ha => (Store.read_writeBlock_inside _ _ _ (by omega)).trans (hname ha),
    fun a ha => Store.read_writeBlock_outside _ _ (by omega), rfl, rfl, nextUop_setBuf_keepsAllBut s _⟩

end Sys2Proof.Machine
end

section
/-! PROOFS. The micro-operations of the Trailer Deriver, each a byte of two nibbles written at its index
(spec/42_trailer.md rules R90, R93 to R98), and the nibble law (rule R101). -/

namespace Sys2Proof.Machine

/-! ## Low nibbles

`loNibble` carries the byte operators over to nibbles, so a byte whose nibbles are masked expressions reads
only the low nibbles of their operands. -/

section loNibble
variable (x y : Byte)

theorem loNibble_eq_setWidth : loNibble x = x.setWidth 4 :=
  (BitVec.setWidth_eq_extractLsb' (by decide)).symm

theorem loNibble_toNat : (loNibble x).toNat = x.toNat % 16 := by
  rw [loNibble_eq_setWidth, BitVec.toNat_setWidth]

@[simp] theorem loNibble_add : loNibble (x + y) = loNibble x + loNibble y := by
  simp only [loNibble_eq_setWidth, BitVec.setWidth_add _ _ (show 4 ≤ 8 by decide)]

@[simp] theorem loNibble_sub : loNibble (x - y) = loNibble x - loNibble y := by
  apply BitVec.eq_of_toNat_eq
  rw [BitVec.toNat_sub, loNibble_toNat, loNibble_toNat, loNibble_toNat, BitVec.toNat_sub]
  omega

@[simp] theorem loNibble_mul : loNibble (x * y) = loNibble x * loNibble y := by
  simp only [loNibble_eq_setWidth, BitVec.setWidth_mul _ _ (show 4 ≤ 8 by decide)]

@[simp] theorem loNibble_not : loNibble (~~~x) = ~~~loNibble x := by
  simp only [loNibble_eq_setWidth, BitVec.setWidth_not (show 4 ≤ 8 by decide)]

@[simp] theorem loNibble_or : loNibble (x ||| y) = loNibble x ||| loNibble y := by
  simp only [loNibble_eq_setWidth, BitVec.setWidth_or]

@[simp] theorem loNibble_xor : loNibble (x ^^^ y) = loNibble x ^^^ loNibble y := by
  simp only [loNibble_eq_setWidth, BitVec.setWidth_xor]

/-- The mask in `simp`'s spelling of the literal. -/
theorem toNat_and_15 : (x &&& 15#8).toNat = x.toNat % 16 := Nat.and_two_pow_sub_one_eq_mod x.toNat 4

theorem and_15_eq_setWidth_loNibble : x &&& 15#8 = (loNibble x).setWidth 8 := by
  apply BitVec.eq_of_toNat_eq
  rw [toNat_and_15, BitVec.toNat_setWidth, loNibble_toNat]
  omega

end loNibble

/-- Settles O32: the bytes are made of masked expressions, each of which is the nibble expression of its
operands' low nibbles. -/
theorem trailerDependsOnLowNibbles : Obligations.TrailerDependsOnLowNibbles := by
  refine ⟨fun b0 b1 b2 b3 b4 c0 c1 c2 c3 c4 h0 h1 h2 h3 h4 => ⟨?_, ?_, ?_⟩, fun q q' b4 c4 hq h4 => ?_⟩
  · simp [trailer1, and_15_eq_setWidth_loNibble, h0, h1, h2, h3, h4]
  · simp [trailer3, and_15_eq_setWidth_loNibble, h0, h1, h2, h3, h4]
  · simp [trailer5, and_15_eq_setWidth_loNibble, h0, h1, h2, h3, h4]
  · simp [trailer2, and_15_eq_setWidth_loNibble, hq, h4]

/-! ## The divisor and the written bytes in integers -/

theorem toNat_sub8 (x y : Byte) : (x - y).toNat = (x.toNat + 256 - y.toNat) % 256 := by
  rw [BitVec.toNat_sub]; omega

theorem toNat_divisor (b0 b3 : Byte) :
    (divisor b0 b3).toNat = (b0.toNat + 256 - b3.toNat + 1) % 256 := by
  rw [divisor, BitVec.toNat_add, toNat_sub8]; simp

theorem divisor_eq_zero_iff {b0 b3 : Byte} : divisor b0 b3 = 0 ↔ b3 = b0 + 1 := by
  rw [divisor]
  exact ⟨fun h => by bv_omega, fun h => by bv_omega⟩

/-- Two nibbles side by side are sixteen times the one plus the other. -/
theorem toNat_nibbles {hi lo : Byte} (hhi : hi.toNat < 16) (hlo : lo.toNat < 16) :
    (nibbles hi lo).toNat = 16 * hi.toNat + lo.toNat := by
  have hshl : (hi <<< 4).toNat = hi.toNat <<< 4 := by
    rw [BitVec.toNat_shiftLeft, Nat.shiftLeft_eq]; omega
  rw [nibbles, BitVec.toNat_or, hshl, ← Nat.shiftLeft_add_eq_or_of_lt hlo, Nat.shiftLeft_eq, Nat.mul_comm]

theorem toNat_nibbles_masked (x y : Byte) :
    (nibbles (x &&& 0xF) (y &&& 0xF)).toNat = 16 * (x.toNat % 16) + y.toNat % 16 := by
  have hlt (z : Byte) : (z &&& 15#8).toNat < 16 := by rw [toNat_and_15]; omega
  exact (toNat_nibbles (hlt x) (hlt y)).trans (by rw [toNat_and_15, toNat_and_15])

section bytes
variable (b0 b1 b2 b3 b4 q : Byte)

theorem toNat_trailer1 : (trailer1 b0 b1 b2 b3 b4).toNat =
    16 * (((b0.toNat ||| b1.toNat) ^^^ (((b2.toNat ||| b3.toNat) + b4.toNat) % 256)) % 16) +
      (b0.toNat ^^^ b1.toNat ^^^ b2.toNat ^^^ b3.toNat ^^^ b4.toNat) % 16 := by
  rw [trailer1, toNat_nibbles_masked]
  simp only [BitVec.toNat_xor, BitVec.toNat_or, BitVec.toNat_add]

theorem toNat_trailer2 : (trailer2 q b4).toNat =
    16 * ((q.toNat + 256 - b4.toNat) % 16) + q.toNat * b4.toNat % 16 := by
  rw [trailer2, toNat_nibbles_masked, toNat_sub8, BitVec.toNat_mul,
    Nat.mod_mod_of_dvd _ (show 16 ∣ 256 by decide), Nat.mod_mod_of_dvd _ (show 16 ∣ 2 ^ 8 by decide)]

theorem toNat_trailer3 : (trailer3 b0 b1 b2 b3 b4).toNat =
    16 * (((b2.toNat + b3.toNat) * (b0.toNat + 256 - b1.toNat) % 256 ^^^ (255 - b4.toNat)) % 16) +
      ((b2.toNat + 256 - b3.toNat) * (b0.toNat + b1.toNat) % 256 ^^^ b4.toNat) % 16 := by
  rw [trailer3, toNat_nibbles_masked]
  simp only [BitVec.toNat_xor, BitVec.toNat_mul, BitVec.toNat_not, BitVec.toNat_add, toNat_sub8,
    Nat.mod_mul_mod, Nat.mul_mod_mod, Nat.reducePow, Nat.reduceSub]

theorem toNat_trailer5 : (trailer5 b0 b1 b2 b3 b4).toNat =
    16 * 9 + (b0.toNat + b1.toNat + 768 - b2.toNat - b3.toNat - b4.toNat) % 16 := by
  have hlow : (b0 + b1 - b2 - (b3 + b4)).toNat % 16 =
      (b0.toNat + b1.toNat + 768 - b2.toNat - b3.toNat - b4.toNat) % 16 := by
    rw [toNat_sub8, toNat_sub8, BitVec.toNat_add, BitVec.toNat_add]
    omega
  rw [← hlow]
  exact toNat_nibbles_masked 9 _

end bytes

/-! ## TRL.DEN -/

/-- A write of `DENOM` and a move change `DENOM`, `UPC` and `I` alone. -/
theorem setDenom_setUpc_setI_keepsAllBut (s : State) (d : Byte) (u : UopCode) (j : BitVec 6) :
    KeepsAllBut [.denom, .upc, .i] s (((s.setDenom d).setUpc u).setI j) := by
  intro e he
  cases e with
  | name | buf | tok => exact fun _ => rfl
  | nlen | h | q | tlen | response | turns => rfl
  | denom | upc | i => simp at he

/-- Settles O24: the guard is the divisor's being 0, and each way of it answers with its own move. -/
theorem trlDenComputesDivisorAndGuards : Obligations.TrlDenComputesDivisorAndGuards := by
  refine ⟨rfl, fun s => ⟨(guardFails_iff s).trans divisor_eq_zero_iff, ?_⟩⟩
  by_cases hd : divisor s.b0 s.b3 = 0
  · have hg : GuardFails s := (guardFails_iff s).mpr hd
    exact ⟨raiseInvalidName (s.setDenom _), if_pos hd, hg.symm, fun _ => rfl, fun hn => absurd hg hn, rfl,
      setDenom_setUpc_setI_keepsAllBut s 0 20 0⟩
  · have hg : ¬ GuardFails s := fun hg => hd ((guardFails_iff s).mp hg)
    exact ⟨nextUop (s.setDenom _), if_neg hd, toNat_divisor .., fun hz => absurd hz hg, fun _ => rfl, rfl,
      setDenom_setUpc_setI_keepsAllBut s _ _ 0⟩

/-! ## TRL.T1 to TRL.T5 -/

/-- The effect the five operations share: inside `BUF` the byte stands at `TR + j`, every other byte and
element is kept, and `UPC` moves on. -/
theorem writeTrailer_effect {s : State} {j k : Nat} {v : Byte} (h : 9 + s.n + j < 47) (hv : v.toNat = k) :
    ∃ t, writeTrailer s j v = .next t ∧ (t.bufAt (9 + s.n + j)).toNat = k ∧
      (∀ a, a ≠ 9 + s.n + j → t.bufAt a = s.bufAt a) ∧
      t.upc = s.upc + 1 ∧ t.i = 0 ∧ KeepsAllBut [.buf, .upc, .i] s t :=
  ⟨_, writeTrailer_inside v h, (congrArg BitVec.toNat (Store.read_write_same _ _ v)).trans hv,
    fun _ ha => Store.read_write_ne _ v ha, rfl, rfl, nextUop_setBuf_keepsAllBut s _⟩

/-- Settles O27: the shared effect at `j = 1`, the byte by `toNat_trailer1`. -/
theorem trlT1WritesTrailer1 : Obligations.TrlT1WritesTrailer1 :=
  ⟨rfl, fun _ hn => writeTrailer_effect (by omega) (toNat_trailer1 ..)⟩

/-- Settles O28: the shared effect at `j = 2`, the byte by `toNat_trailer2`. -/
theorem trlT2WritesTrailer2 : Obligations.TrlT2WritesTrailer2 :=
  ⟨rfl, fun _ hn => writeTrailer_effect (by omega) (toNat_trailer2 ..)⟩

/-- Settles O29: the shared effect at `j = 3`, the byte by `toNat_trailer3`. -/
theorem trlT3WritesTrailer3 : Obligations.TrlT3WritesTrailer3 :=
  ⟨rfl, fun _ hn => writeTrailer_effect (by omega) (toNat_trailer3 ..)⟩

/-- Settles O30: the shared effect at `j = 4`, the byte a constant. -/
theorem trlT4WritesConstant : Obligations.TrlT4WritesConstant :=
  ⟨rfl, fun _ hn => writeTrailer_effect (by omega) rfl⟩

/-- Settles O31: the shared effect at `j = 5`, the byte by `toNat_trailer5`. -/
theorem trlT5WritesTrailer5 : Obligations.TrlT5WritesTrailer5 :=
  ⟨rfl, fun _ hn => writeTrailer_effect (by omega) (toNat_trailer5 ..)⟩

end Sys2Proof.Machine
end

section
/-! PROOFS. The micro-operations of the Checksum Computer (spec/43_checksum.md rules R106, R108, R109), and its
stage, which computes CHECKSUM of the KeyBuffer (rule R110). -/

namespace Sys2Proof.Machine

/-! ## Frames of several writes -/

/-- What is outside two frames, one after the other, is kept by both. -/
theorem KeepsAllBut.trans {es fs : List Element} {s t u : State} (h : KeepsAllBut es s t)
    (h' : KeepsAllBut fs t u) : KeepsAllBut (es ++ fs) s u := by
  intro e he
  rw [List.mem_append, not_or] at he
  have hst := h e he.1
  have htu := h' e he.2
  cases e with
  | name | buf | tok => exact fun a => (htu a).trans (hst a)
  | nlen | h | denom | q | i | upc | tlen | response | turns => exact htu.trans hst

section frames
variable (s : State)

theorem setBuf_keepsAllBut (m : Store) : KeepsAllBut [.buf] s (s.setBuf m) := by
  intro e he
  cases e with
  | name | tok => exact fun _ => rfl
  | nlen | h | denom | q | i | upc | tlen | response | turns => rfl
  | buf => simp at he

theorem setH_keepsAllBut (v : Word) : KeepsAllBut [.h] s (s.setH v) := by
  intro e he
  cases e with
  | name | buf | tok => exact fun _ => rfl
  | nlen | denom | q | i | upc | tlen | response | turns => rfl
  | h => simp at he

theorem setUpc_setI_keepsAllBut (u : UopCode) (j : BitVec 6) :
    KeepsAllBut [.upc, .i] s ((s.setUpc u).setI j) := by
  intro e he
  cases e with
  | name | buf | tok => exact fun _ => rfl
  | nlen | h | denom | q | tlen | response | turns => rfl
  | upc | i => simp at he

theorem loopUop_keepsAllBut : KeepsAllBut [.upc, .i] s (loopUop s) := by
  rcases loopUop_cases s with ⟨-, h⟩ | ⟨-, h⟩ <;> rw [h]
  · exact setUpc_setI_keepsAllBut s s.upc _
  · exact setUpc_setI_keepsAllBut s _ 0

end frames

/-! ## The move of a loop -/

/-- Before the last position of the KeyBuffer only `I` moves on. -/
theorem loopUop_inside {s : State} (hp : s.pos < 47) (h : s.pos + 1 < s.len) :
    (loopUop s).upc = s.upc ∧ (loopUop s).i.toNat = s.pos + 1 := by
  rw [loopUop, if_pos h]
  exact ⟨rfl, pos_setI_add_one (Nat.le_of_lt_succ hp)⟩

/-- At the last position the loop is left. -/
theorem loopUop_last {s : State} (h : s.len ≤ s.pos + 1) :
    (loopUop s).upc = s.upc + 1 ∧ (loopUop s).i = 0 := by
  rw [loopUop, if_neg (Nat.not_lt.mpr h)]
  exact ⟨rfl, rfl⟩

/-! ## The fold in integers -/

theorem toNat_chkSum (h : Word) (k : Byte) :
    (chkSum h k).toNat = (k.toNat * 0x11121 + h.toNat * 8) % 2 ^ 32 := by
  have hk : (zext32 k).toNat = k.toNat := BitVec.toNat_setWidth_of_le (by decide)
  rw [chkSum, BitVec.toNat_add, BitVec.toNat_mul, BitVec.toNat_shiftLeft, hk, Nat.shiftLeft_eq]
  exact (Nat.add_mod ..).symm

/-- Adding a word shifted arithmetically adds the floor of its signed value, modulo `2^32`. -/
theorem toNat_add_asr32 (a b : Word) (s : Nat) :
    ((add32 a (asr32 b s)).toNat : Int) = (a.toNat + b.toInt / 2 ^ s) % 2 ^ 32 := by
  have hshift : (asr32 b s).toInt = b.toInt / 2 ^ s := by
    rw [BitVec.toInt_sshiftRight, Int.shiftRight_eq_div_pow]; norm_cast
  rw [← hshift, BitVec.toInt_eq_toNat_cond, BitVec.toNat_add]
  split <;> omega

/-! ## CHK.INIT, CHK.STEP, CHK.WR -/

/-- Settles O33: a write of `H` and `next`. -/
theorem chkInitClearsHash : Obligations.ChkInitClearsHash :=
  ⟨rfl, fun s => ⟨_, rfl, rfl, rfl, rfl,
    (setH_keepsAllBut s 0).trans (setUpc_setI_keepsAllBut _ (s.upc + 1) 0)⟩⟩

/-- Settles O34: inside `BUF` CHK.STEP folds the byte; `sa` is the sum read as a two's-complement number, of
which the arithmetic shift takes the floor. -/
theorem chkStepFoldsByte : Obligations.ChkStepFoldsByte := by
  refine ⟨rfl, fun s hp => ?_⟩
  let u := s.setH (chkFold s.h (s.bufAt s.pos))
  refine ⟨loopUop u, execChkStep_inside hp, fun a ha sa hsa => ?_, loopUop_inside (s := u) hp,
    loopUop_last (s := u), (setH_keepsAllBut s _).trans (loopUop_keepsAllBut u)⟩
  have hsum : (chkSum s.h (s.bufAt s.pos)).toNat = a := (toNat_chkSum ..).trans ha.symm
  have hsigned : (chkSum s.h (s.bufAt s.pos)).toInt = sa := by
    rw [BitVec.toInt_eq_toNat_cond, hsum, hsa]
    split_ifs <;> omega
  rw [loopUop_h, State.setH_h, ← hsum, ← hsigned]
  exact toNat_add_asr32 _ _ 26

/-- Byte `k` of a word, least significant first (R34). -/
theorem toNat_getD_le32 (v : Word) {k : Nat} (hk : k < 4) :
    ((le32 v).getD k 0).toNat = v.toNat / 256 ^ k % 256 := by
  have hbyte : (le32 v).getD k 0 = v.extractLsb' (8 * k) 8 := by interval_cases k <;> rfl
  rw [hbyte, BitVec.extractLsb'_toNat, Nat.shiftRight_eq_div_pow, Nat.pow_mul]

/-- Settles O35: a block of the word's four bytes at index 5 and `next`. -/
theorem chkWrStoresHash : Obligations.ChkWrStoresHash := by
  refine ⟨rfl, fun s => ⟨_, rfl, fun k hk => ?_, fun a ha => Store.read_writeBlock_outside _ _ ha, rfl, rfl,
    nextUop_setBuf_keepsAllBut s _⟩⟩
  rw [← toNat_getD_le32 s.h hk]
  exact congrArg BitVec.toNat (Store.read_writeBlock_inside _ _ _ hk)

/-! ## The stage -/

/-- The loop changes the hash and `I` alone. -/
theorem loopIter_chkStep_eq (k : Nat) (s : State) : ∃ v j, loopIter .chkStep k s = (s.setH v).setI j := by
  induction k with
  | zero => exact ⟨s.h, s.i, rfl⟩
  | succ k ih =>
    obtain ⟨v, j, h⟩ := ih
    exact ⟨_, _, by rw [loopIter, h]; rfl⟩

/-- The stage leaves the checksum of the KeyBuffer in `H` and its bytes in their field, and nothing else
changed but `UPC` and `I`. -/
theorem loopStage_checksum_eq {s : State} (hn : s.n ≤ 32) : loopStage .chkInit .chkStep .chkWr s =
    (((s.setBuf (s.mem.buf.writeBlock 5 (le32 (checksum s.keyBuffer)))).setH (checksum s.keyBuffer)).setUpc
      (s.upc + 1 + 1 + 1)).setI 0 := by
  have hlen := s.len_eq
  have hh : (loopIter .chkStep s.len (nextUop (s.setH 0))).h = checksum s.keyBuffer :=
    loopIter_chkStep_h rfl (by omega)
  obtain ⟨v, j, heq⟩ := loopIter_chkStep_eq s.len (nextUop (s.setH 0))
  obtain rfl : v = checksum s.keyBuffer := by rw [← hh, heq]; rfl
  show nextUop (dataEffect .chkWr (nextUop (loopIter .chkStep s.len (nextUop (s.setH 0))))) = _
  rw [heq]
  rfl

/-- Settles O52: the stage as `loopStage`, a straight operation on either side of the loop. -/
theorem checksumStageHashesBuffer : Obligations.ChecksumStageHashesBuffer := by
  intro s ha h12 hl
  have hn : s.n ≤ 32 := ((State.lenOk_iff s).mp hl).2
  have hrun := run_loopStage (i := .chkInit) (j := .chkStep) (k := .chkWr) ha hn (by rw [h12]; decide)
  rw [loopStage_checksum_eq hn, show 1 + s.len + 1 = 2 + s.len by omega] at hrun
  refine ⟨_, hrun, ?_, rfl, rfl, fun k hk => Store.read_writeBlock_inside _ _ _ hk,
    fun _ hout => Store.read_writeBlock_outside _ _ hout, ?_⟩
  · show s.upc + 1 + 1 + 1 = 15
    rw [h12]; rfl
  · exact ((setBuf_keepsAllBut s _).trans (setH_keepsAllBut _ _)).trans (setUpc_setI_keepsAllBut _ _ 0)

end Sys2Proof.Machine
end

section

namespace Sys2Proof.Machine

/-! ## MASK and REV8 (spec/44_obfuscation.md) -/

/-- The inner shift reaches the three bits the mask keeps only at the first three positions of 32, since
`2^k` with `3 ≤ k` is a multiple of 8 (R114). -/
theorem maskShift_eq (i : Nat) : maskShift i =
    if i % 32 = 0 then 1 else if i % 32 = 1 then 2 else if i % 32 = 2 then 4 else 0 := by
  have hshift : maskShift i = 2 ^ (i % 32) % 8 := by
    rw [maskShift, Nat.and_two_pow_sub_one_eq_mod _ 5, Nat.and_two_pow_sub_one_eq_mod _ 3, Nat.one_shiftLeft]
  rw [hshift]
  split_ifs with h0 h1 h2
  · rw [h0]; rfl
  · rw [h1]; rfl
  · rw [h2]; rfl
  · exact Nat.mod_eq_zero_of_dvd (Nat.pow_dvd_pow 2 (show 3 ≤ i % 32 by omega))

/-- The four closed forms of `MASK` at the positions of a buffer, where the differences do not wrap
(R114). -/
theorem mask_eq {i : Nat} (hi : i < 47) : mask i = BitVec.ofNat 8
    ((if i % 32 = 0 then 253 else if i % 32 = 1 then 251 else if i % 32 = 2 then 239 else 254) - i) := by
  have hsub : ∀ d ≤ 16, BitVec.ofNat 8 255 - BitVec.ofNat 8 i - BitVec.ofNat 8 d =
      BitVec.ofNat 8 (255 - d - i) := fun d hd => by
    rw [BitVec.ofNat_sub_ofNat_of_le _ _ (by omega) (by omega),
      BitVec.ofNat_sub_ofNat_of_le _ _ (by omega) (by omega), Nat.sub_right_comm]
  rw [mask, maskShift_eq]
  split_ifs
  · exact hsub 2 (by decide)
  · exact hsub 4 (by decide)
  · exact hsub 16 (by decide)
  · exact hsub 1 (by decide)

theorem getLsbD_rev8 (v : Byte) {k : Nat} (hk : k < 8) : (rev8 v).getLsbD k = v.getLsbD (7 - k) := by
  rw [rev8]
  iterate 7 rw [BitVec.getLsbD_append]
  interval_cases k <;> simp

/-! ## OBF.STEP and the table -/

/-- Settles O36: inside `BUF` OBF.STEP is a write of one byte and the move of a loop; the byte written is
`REV8` of the masked byte, read bit by bit. -/
theorem obfStepMasksAndReverses : Obligations.ObfStepMasksAndReverses := by
  refine ⟨rfl, fun s hp => ?_⟩
  let u := s.setBuf (s.mem.buf.write s.pos (obf s.pos (s.bufAt s.pos)))
  refine ⟨loopUop u, execObfStep_inside hp, fun k hk => ?_, fun a ha => ?_, loopUop_inside (s := u) hp,
    loopUop_last (s := u), (setBuf_keepsAllBut s _).trans (loopUop_keepsAllBut u)⟩
  · have hbyte : (loopUop u).bufAt s.pos = rev8 (s.bufAt s.pos ^^^ mask s.pos) :=
      (loopUop_bufAt u s.pos).trans (Store.read_write_same ..)
    rw [hbyte, getLsbD_rev8 _ hk, mask_eq hp]
  · exact (loopUop_bufAt u a).trans (Store.read_write_ne _ _ ha)

/-- Settles O37: a closed table of 47 values. -/
theorem maskTable : Obligations.MaskTable := by
  unfold Obligations.MaskTable
  decide

end Sys2Proof.Machine
end

section
/-! PROOFS. The micro-operations of the Hex Formatter (spec/45_formatter.md rules R123 to R125), and its stage,
which leaves FORMAT of the KeyBuffer in `TOK` (rule R126). -/

namespace Sys2Proof.Machine

/-! ## The digits of a byte -/

/-- The codes of the sixteen digits (R122). -/
def hexCodes : List Nat :=
  [0x30, 0x31, 0x32, 0x33, 0x34, 0x35, 0x36, 0x37, 0x38, 0x39, 0x61, 0x62, 0x63, 0x64, 0x65, 0x66]

theorem toNat_hexd : ∀ d : Nibble, (hexd d).toNat = hexCodes.getD d.toNat 0 := by decide

theorem hexd_injective : Function.Injective hexd := by
  unfold Function.Injective
  decide

theorem hiNibble_toNat (v : Byte) : (hiNibble v).toNat = v.toNat / 16 := by
  rw [hiNibble, BitVec.extractLsb'_toNat, Nat.shiftRight_eq_div_pow]
  exact Nat.mod_eq_of_lt (by omega)

/-- The two digits determine the byte, each its nibble. -/
theorem hexPair_injective : Function.Injective hexPair := by
  intro v w h
  obtain ⟨hhi, hlo⟩ : hexd (hiNibble v) = hexd (hiNibble w) ∧ hexd (loNibble v) = hexd (loNibble w) := by
    simpa [hexPair] using h
  have hdiv := congrArg BitVec.toNat (hexd_injective hhi)
  have hmod := congrArg BitVec.toNat (hexd_injective hlo)
  rw [hiNibble_toNat, hiNibble_toNat] at hdiv
  rw [loNibble_toNat, loNibble_toNat] at hmod
  exact BitVec.eq_of_toNat_eq (by omega)

/-- Every byte has two digits, so two sequences with the same digits agree byte by byte. -/
theorem flatMap_hexPair_inj {bs cs : List Byte} (h : bs.flatMap hexPair = cs.flatMap hexPair) : bs = cs := by
  induction bs generalizing cs with
  | nil =>
    cases cs with
    | nil => rfl
    | cons c cs => cases h
  | cons b bs ih =>
    cases cs with
    | nil => cases h
    | cons c cs =>
      rw [List.flatMap_cons, List.flatMap_cons] at h
      obtain ⟨hhead, htail⟩ := List.append_inj h rfl
      rw [hexPair_injective hhead, ih htail]

theorem format_injective : Function.Injective format := fun _ _ h =>
  flatMap_hexPair_inj (List.append_cancel_right (List.cons.inj h).2)

/-! ## FMT.OPEN, FMT.BYTE, FMT.CLOSE -/

theorem setTok_setTlen_keepsAllBut (s : State) (m : Store) (v : BitVec 7) :
    KeepsAllBut [.tok, .tlen] s ((s.setTok m).setTlen v) := by
  intro e he
  cases e with
  | name | buf => exact fun _ => rfl
  | nlen | h | denom | q | i | upc | response | turns => rfl
  | tok | tlen => simp at he

/-- A write of `TOK` and `TLEN` followed by `next` changes `TOK`, `TLEN`, `UPC` and `I` alone. -/
theorem nextUop_setTok_setTlen_keepsAllBut (s : State) (m : Store) (v : BitVec 7) :
    KeepsAllBut [.tok, .tlen, .upc, .i] s (nextUop ((s.setTok m).setTlen v)) :=
  (setTok_setTlen_keepsAllBut s m v).trans (setUpc_setI_keepsAllBut _ _ 0)

theorem status_of_done {s : State} (h : s.upc = 19) : s.status = 0b010 := by
  rw [State.status, State.isErr, State.isDone, State.busy, h]; rfl

/-- Settles O39: a write of one character and `next`. -/
theorem fmtOpenWritesBracket : Obligations.FmtOpenWritesBracket :=
  ⟨rfl, fun s => ⟨_, rfl, Store.read_write_same s.mem.tok 0 0x3C,
    fun _ ha => Store.read_write_ne s.mem.tok 0x3C ha, rfl, rfl, rfl, nextUop_setTok_setTlen_keepsAllBut s _ 1⟩⟩

/-- Settles O40: inside `BUF` FMT.BYTE is a block of the byte's two digits and the move of a loop; a digit's
code is the table's at the nibble. -/
theorem fmtByteWritesTwoDigits : Obligations.FmtByteWritesTwoDigits := by
  refine ⟨rfl, fun s hp => ?_⟩
  let u := (s.setTok (s.mem.tok.writeBlock (1 + 2 * s.pos) (hexPair (s.bufAt s.pos)))).setTlen
    (BitVec.ofNat 7 (3 + 2 * s.pos))
  have hdigit {k : Nat} (hk : k < 2) :
      (loopUop u).tokAt (1 + 2 * s.pos + k) = (hexPair (s.bufAt s.pos)).getD k 0 :=
    (loopUop_tokAt u _).trans (Store.read_writeBlock_inside _ _ _ hk)
  refine ⟨loopUop u, execFmtByte_inside hp, fun codes hcodes => ?_, fun a h1 h2 => ?_, ?_,
    loopUop_inside (s := u) hp, loopUop_last (s := u),
    (setTok_setTlen_keepsAllBut s _ _).trans (loopUop_keepsAllBut u)⟩
  · obtain rfl : codes = hexCodes := hcodes
    rw [← hiNibble_toNat, ← loNibble_toNat, ← toNat_hexd, ← toNat_hexd]
    refine ⟨congrArg BitVec.toNat (hdigit (k := 0) (by decide)), ?_⟩
    rw [show 2 + 2 * s.pos = 1 + 2 * s.pos + 1 by omega, hdigit (by decide)]
    rfl
  · refine (loopUop_tokAt u a).trans (Store.read_writeBlock_outside _ _ ?_)
    show a < 1 + 2 * s.pos ∨ 1 + 2 * s.pos + 2 ≤ a
    omega
  · rw [loopUop_tlen, State.setTlen_tlen, BitVec.toNat_ofNat]
    exact Nat.mod_eq_of_lt (by omega)

/-- Settles O41: with the length in range FMT.CLOSE is a write of one character and `next`. -/
theorem fmtCloseEndsRun : Obligations.FmtCloseEndsRun := by
  refine ⟨rfl, fun s hn => ?_⟩
  have hlen := s.len_eq
  refine ⟨_, execFmtClose_inside (by omega), Store.read_write_same s.mem.tok _ 0x3E,
    fun _ ha => Store.read_write_ne s.mem.tok 0x3E ha, ?_, rfl, rfl, fun h18 => ?_,
    nextUop_setTok_setTlen_keepsAllBut s _ _⟩
  · rw [nextUop_tlen, State.setTlen_tlen, BitVec.toNat_ofNat]
    exact Nat.mod_eq_of_lt (by omega)
  · have hupc : s.upc + 1 = 19 := by rw [h18]; rfl
    exact ⟨hupc, status_of_done hupc⟩

/-! ## The stage -/

/-- The loop changes `TOK`, `TLEN` and `I` alone. -/
theorem loopIter_fmtByte_eq (k : Nat) (s : State) :
    ∃ m v j, loopIter .fmtByte k s = ((s.setTok m).setTlen v).setI j := by
  induction k with
  | zero => exact ⟨s.mem.tok, s.tlen, s.i, rfl⟩
  | succ k ih =>
    obtain ⟨m, v, j, h⟩ := ih
    exact ⟨_, _, _, by rw [loopIter, h]; rfl⟩

/-- The loop writes no character past the last digit. -/
theorem loopIter_fmtByte_tokAt {k : Nat} {s : State} (hi : s.i = 0) (hk : k < 64) {a : Nat}
    (ha : 1 + 2 * k ≤ a) : (loopIter .fmtByte k s).tokAt a = s.tokAt a := by
  induction k with
  | zero => rfl
  | succ k ih =>
    have hpos := loopIter_pos (i := .fmtByte) hi (show k < 64 by omega)
    refine (Store.read_writeBlock_outside _ _ (.inr ?_)).trans (ih (by omega) (by omega))
    rw [hpos]
    show 1 + 2 * k + 2 ≤ a
    omega

/-- The stage changes `TOK`, `TLEN`, `UPC` and `I` alone. -/
theorem loopStage_formatter_keepsAllBut (s : State) :
    KeepsAllBut [.tok, .tlen, .upc, .i] s (loopStage .fmtOpen .fmtByte .fmtClose s) := by
  obtain ⟨m, v, j, h⟩ := loopIter_fmtByte_eq s.len (nextUop (dataEffect .fmtOpen s))
  obtain ⟨m', v', heq⟩ : ∃ m' v', loopStage .fmtOpen .fmtByte .fmtClose s =
      (((s.setTok m').setTlen v').setUpc (s.upc + 1 + 1 + 1)).setI 0 :=
    ⟨_, _, by rw [loopStage, h]; rfl⟩
  rw [heq]
  exact (setTok_setTlen_keepsAllBut s m' v').trans (setUpc_setI_keepsAllBut _ _ 0)

/-- The stage writes no character past the closing bracket. -/
theorem loopStage_formatter_tokAt {s : State} (hn : s.n ≤ 32) {a : Nat} (ha : 2 * s.len + 2 ≤ a) :
    (loopStage .fmtOpen .fmtByte .fmtClose s).tokAt a = s.tokAt a := by
  have hlen := s.len_eq
  let u := nextUop (dataEffect .fmtOpen s)
  have hopen : u.tokAt a = s.tokAt a := Store.read_write_ne s.mem.tok 0x3C (by omega)
  have hbytes : (loopIter .fmtByte s.len u).tokAt a = u.tokAt a :=
    loopIter_fmtByte_tokAt rfl (by omega) (by omega)
  have hclose : (loopStage .fmtOpen .fmtByte .fmtClose s).tokAt a = (loopIter .fmtByte s.len u).tokAt a := by
    refine Store.read_write_ne (loopIter .fmtByte s.len u).mem.tok 0x3E ?_
    rw [nextUop_len, loopIter_len]
    show a ≠ 2 * s.len + 1
    omega
  rw [hclose, hbytes, hopen]

/-- FMT.OPEN does not read `I`, so the stage is the same whatever `I` was. -/
theorem loopStage_formatter_setI (s : State) (v : BitVec 6) :
    loopStage .fmtOpen .fmtByte .fmtClose (s.setI v) = loopStage .fmtOpen .fmtByte .fmtClose s := by
  have hopen : nextUop (dataEffect .fmtOpen (s.setI v)) = nextUop (dataEffect .fmtOpen s) := rfl
  rw [loopStage, hopen, State.setI_len, loopStage]

theorem run_formatter_eq {s : State} (ha : SequencerOnly s) (h16 : s.upc = 16) (hn : s.n ≤ 32) :
    run (1 + s.len + 1) s = .next (loopStage .fmtOpen .fmtByte .fmtClose s) :=
  run_loopStage ha hn (by rw [h16]; decide)

/-- Settles O54: the stage as `loopStage`; its token is what `run_formatter` says of the run from `I` 0. -/
theorem formatterStageRendersToken : Obligations.FormatterStageRendersToken := by
  refine ⟨fun s ha h16 hl => ?_, format_injective⟩
  have hn : s.n ≤ 32 := ((State.lenOk_iff s).mp hl).2
  have hlen := s.len_eq
  obtain ⟨t, hrun, hupc, htlen, htoken⟩ :=
    run_formatter (s := s.setI 0) (bs := s.keyBuffer) ⟨ha, h16, rfl, rfl, rfl⟩ hn
  rw [run_formatter_eq (s := s.setI 0) ha h16 hn, loopStage_formatter_setI] at hrun
  obtain rfl := Host.Outcome.next.inj hrun
  rw [State.setI_len] at htlen
  refine ⟨_, ?_, hupc, rfl, htoken, by omega, fun a hout => loopStage_formatter_tokAt hn (by omega),
    loopStage_formatter_keepsAllBut s⟩
  rw [show 2 + s.len = 1 + s.len + 1 by omega]
  exact run_formatter_eq ha h16 hn

end Sys2Proof.Machine
end

section
/-! PROOFS. The exception InvalidName (spec/60_exceptions.md): what taking it does and that TRL.DEN alone raises
it (rule R131), and the state at trap entry (rule R132). -/

namespace Sys2Proof.Machine

/-! ## Only TRL.DEN raises it -/

/-- A rejected divisor takes the exception, and its own write of `DENOM` is the exception's. -/
theorem exec_trlDen_of_guardFails {s : State} (hg : GuardFails s) :
    exec .trlDen s = .next (raiseInvalidName s) := if_pos ((guardFails_iff s).mp hg)

theorem encode_of_decodeUop {c : UopCode} {i : Instr} (h : decodeUop c = .ok i) : encode i = .uop c := by
  have hc : c = BitVec.ofNat 5 c.toNat := by simp
  have hlt := c.isLt
  generalize c.toNat = k at *
  subst hc
  interval_cases k <;> cases h <;> rfl

section raised
variable {s t : State} {i : Instr}

/-- Of the three moves of a micro-operation only the exception leads to 20: the loop keeps `UPC`, which selects
the operation, and `next` leads to 20 from 19 alone, which selects none. -/
theorem guardFails_of_advance_upc (hc : encode i = .uop s.upc)
    (h : (advance i (dataEffect i s)).upc = 20) : s.upc = 5 ∧ GuardFails s := by
  have hd : decodeUop s.upc = .ok i := decodeUop_of_encode hc
  rcases advance_cases i (dataEffect i s) with ⟨rfl, hden, -⟩ | ⟨-, -, heq⟩ | ⟨-, -, heq⟩
  · exact ⟨(Code.uop.inj hc).symm, (guardFails_iff s).mpr hden⟩
  · rw [heq, State.setI_upc, dataEffect_upc] at h
    rw [h] at hd; cases hd
  · rw [heq, nextUop_upc, dataEffect_upc] at h
    have h19 : s.upc = 19 := by bv_omega
    rw [h19] at hd; cases hd

/-- A command leaves `UPC` as it is, but for START, which sets it to 1, and RESET, which sets it to 0. -/
theorem exec_command_upc {w : PortWord} (hw : encode i = .command w) (h : exec i s = .next t) :
    t.upc = s.upc ∨ t.upc = 1 ∨ t.upc = 0 := by
  cases i with
  | nop | rdstat => cases h; exact .inl rfl
  | ldlen => rcases execLdlen_next h with ⟨-, rfl⟩ | ⟨-, rfl⟩ <;> exact .inl rfl
  | ldname => rcases execLdname_next h with ⟨-, rfl⟩ | ⟨-, -, rfl⟩ <;> exact .inl rfl
  | rdtok => rcases execRdtok_next h with ⟨-, -, -, rfl⟩ | ⟨-, rfl⟩ <;> exact .inl rfl
  | start =>
    rcases execStart_next h with ⟨-, rfl⟩ | ⟨-, -, rfl⟩
    · exact .inl rfl
    · exact .inr (.inl rfl)
  | reset => cases h; exact .inr (.inr rfl)
  | _ => cases hw

/-- The host's turn never leads to 20. -/
theorem step_hostTurn_upc_ne {w : PortWord} (hturn : s.nextTurn = .host w) (hne : s.upc ≠ 20)
    (h : step s = .next t) : t.upc ≠ 20 := by
  simp only [step, State.select, hturn, selectCommand] at h
  cases hd : decodeCommand w with
  | error e => rw [hd] at h; cases h; exact hne
  | ok i =>
    rw [hd] at h
    rcases exec_command_upc (encode_of_decodeCommand hd) h with heq | heq | heq <;> rw [heq]
    · exact hne
    · decide
    · decide

/-- The sequencer's turn leads to 20 only from UPC 5 with the guard failing. -/
theorem step_sequencerTurn_upc (hturn : s.nextTurn = .sequencer) (hne : s.upc ≠ 20)
    (h : step s = .next t) (h20 : t.upc = 20) : s.upc = 5 ∧ GuardFails s := by
  simp only [step, State.select, hturn, State.selectUop] at h
  cases hd : decodeUop s.upc with
  | error e => rw [hd] at h; cases h; exact absurd h20 hne
  | ok i =>
    rw [hd] at h
    have hc : encode i = .uop s.takeTurn.upc := encode_of_decodeUop hd
    obtain ⟨rfl, -⟩ := exec_uop_next hc h
    exact guardFails_of_advance_upc (s := s.takeTurn) hc h20

end raised

/-- Settles O42: with the guard failing TRL.DEN is the exception alone; then whose turn it is decides, the
host's and the pin's leading elsewhere. -/
theorem invalidNameOnlyFromTrlDen : Obligations.InvalidNameOnlyFromTrlDen := by
  refine ⟨fun s hg => ⟨_, exec_trlDen_of_guardFails hg, rfl, rfl, rfl,
    setDenom_setUpc_setI_keepsAllBut s 0 20 0⟩, fun s t hne hstep h20 => ?_⟩
  cases hturn : s.nextTurn with
  | host w => exact absurd h20 (step_hostTurn_upc_ne hturn hne hstep)
  | sequencer => exact ⟨rfl, step_sequencerTurn_upc hturn hne hstep h20⟩
  | resetPin =>
    simp only [step, State.select, hturn] at hstep
    cases hstep; cases h20

/-! ## The state at trap entry -/

/-- On an assembled buffer the guard is the one on the name. -/
theorem StageAt.guardFails_iff {u : UopCode} {name : List Byte} {s : State}
    (h : StageAt u name.length (assemble name) s) (hn : 5 ≤ name.length) :
    GuardFails s ↔ guardFails name = true := by
  obtain ⟨hb0, -, -, hb3, -⟩ := h.operands hn
  rw [Machine.guardFails_iff, hb0, hb3, guardFails, beq_iff_eq]

/-- Above the KeyBuffer the assembled buffer is as ASM.CLR left it. -/
theorem execLine_assembler_bufAt_above {s : State} {a : Nat} (ha : s.len ≤ a) :
    (execLine assemblerUops s).bufAt a = 0 := by
  have hlen := s.len_eq
  have hname : s.nameBytes.length = s.n := Store.length_readBlock ..
  rw [State.bufAt, execLine_assembler_buf, Store.read_writeBlock_outside _ _ (.inr (by omega)),
    Store.read_writeBlock_outside _ _ (.inr (by simp; omega))]
  rfl

section raiseInvalidName
variable (s : State)
@[simp] theorem raiseInvalidName_bufAt (a : Nat) : (raiseInvalidName s).bufAt a = s.bufAt a := rfl
@[simp] theorem raiseInvalidName_keyBuffer : (raiseInvalidName s).keyBuffer = s.keyBuffer := rfl
end raiseInvalidName

/-- The state in which the run an accepted START begins has taken the exception. -/
def trapEntry (s : State) : State := raiseInvalidName (execLine assemblerUops (started s))

theorem run_trapEntry {s : State} (ht : s.turns = [.host startWord]) (hq : Quiescent s) (hl : LenOk s)
    (hg : guardFails s.nameBytes = true) : run 6 s = .next (trapEntry s) := by
  obtain ⟨hrun, hstage⟩ := run_assembler (s := started s) rfl rfl hl
  have hname : (started s).n = s.nameBytes.length := (Store.length_readBlock ..).symm
  rw [hname] at hstage
  have hn : 5 ≤ s.nameBytes.length := hname ▸ ((State.lenOk_iff s).mp hl).1
  have hguard : GuardFails (execLine assemblerUops (started s)) := (hstage.guardFails_iff hn).mpr hg
  have htrap : step (execLine assemblerUops (started s)) = .next (trapEntry s) :=
    (step_alone hstage.alone (by rw [hstage.upc]; rfl)).trans (exec_trlDen_of_guardFails hguard)
  exact (run_succ_next (step_start ht hq hl)).trans (run_trans hrun (run_one htrap))

theorem trapEntry_keepsAllBut (s : State) :
    KeepsAllBut [.buf, .denom, .tlen, .i, .upc, .response, .turns] s (trapEntry s) := by
  intro e he
  cases e with
  | name | tok => exact fun _ => rfl
  | nlen | h | q => rfl
  | buf | denom | tlen | i | upc | response | turns => simp at he

/-- The buffer is the assembled one of the name (R88), which START and the exception leave alone. -/
theorem trapEntry_keyBuffer (s : State) : (trapEntry s).keyBuffer = assemble s.nameBytes := by
  rw [trapEntry, raiseInvalidName_keyBuffer, execLine_assembler_keyBuffer]; rfl

theorem trapEntry_bufAt_above {s : State} {a : Nat} (ha : s.len ≤ a) : (trapEntry s).bufAt a = 0 := by
  rw [trapEntry, raiseInvalidName_bufAt]
  exact execLine_assembler_bufAt_above (s := started s) ha

/-- Settles O55: START, the four operations of the Layout Assembler, and the exception. -/
theorem stateAtTrapEntry : Obligations.StateAtTrapEntry := fun s ht hq hl hg =>
  ⟨trapEntry s, run_trapEntry ht hq hl hg, rfl, trapEntry_keyBuffer s, fun _ ha _ => trapEntry_bufAt_above ha,
    rfl, rfl, rfl, trapEntry_keepsAllBut s⟩

end Sys2Proof.Machine
end

section
/-! PROOFS. The two encodings: the decoder and the encoder undo each other (spec/30_encoding.md sections 4 and
5), and the rows of the command map select the words the decoder reads (rule R57). -/

namespace Sys2Proof

/-- Settles O1: each word is closed, so the decoder's answer is an evaluation. -/
theorem specWordsDecode : Obligations.SpecWordsDecode :=
  ⟨rfl, rfl, rfl, rfl, rfl, rfl, rfl, rfl, rfl, rfl, rfl, rfl, rfl, rfl, rfl, rfl, rfl, rfl⟩

/-- Settles O2: the round trip of each operation; an operand comes back from its field. -/
theorem decodeOfEncode : Obligations.DecodeOfEncode := by
  intro i
  cases i with
  | ldlen len => exact Laws.RoundTrip.ldlen len
  | ldname idx data => exact Laws.RoundTrip.ldname idx data
  | rdtok tidx => exact Laws.RoundTrip.rdtok tidx
  | _ => exact fun _ => rfl

/-! ## A decoded operation -/

theorem wellFormed_of_encode_uop {i : Instr} {c : UopCode} (hc : encode i = .uop c) : i.wellFormed = true := by
  cases i with
  | nop | ldlen | ldname | start | rdtok | rdstat | reset => cases hc
  | _ => rfl

/-- The operands of a decoded command are fields of its word, so they fit. -/
theorem wellFormed_of_decodeCommand {w : PortWord} {i : Instr} (h : decodeCommand w = .ok i) :
    i.wellFormed = true := by
  have field_lt (lo n : Nat) : cmdField w lo n < 2 ^ n := (w.extractLsb' lo n).isLt
  unfold decodeCommand at h
  split at h
  · rw [(ifZero_eq_ok h).2]; rfl
  · rw [(ifZero_eq_ok h).2]; exact decide_eq_true (field_lt 0 6)
  · rw [← Except.ok.inj h]; exact decide_eq_true (field_lt 8 5)
  · rw [(ifZero_eq_ok h).2]; rfl
  · rw [(ifZero_eq_ok h).2]; exact decide_eq_true (field_lt 0 7)
  · rw [(ifZero_eq_ok h).2]; rfl
  · rw [(ifZero_eq_ok h).2]; rfl
  · cases h

/-- Settles O3: code by code, and for a word its fields. -/
theorem encodeOfDecode : Obligations.EncodeOfDecode := by
  intro c i h
  cases c with
  | uop c =>
    have hc : encode i = .uop c := Machine.encode_of_decodeUop h
    exact ⟨hc, wellFormed_of_encode_uop hc⟩
  | command w => exact ⟨encode_of_decodeCommand h, wellFormed_of_decodeCommand h⟩

/-! ## The rows of the command map -/

/-- The word of a well-formed command is selected by the command's row. -/
theorem selectedBy_of_encode {w : PortWord} {i : Instr} {r : CommandRow} (hi : i.wellFormed = true)
    (hw : encode i = .command w) (hr : commandRowOf i = some r) : r.selectedBy w = true := by
  cases i with
  | nop | start | rdstat | reset => cases hw; cases hr; rfl
  | ldlen len =>
    have hlen : len < 64 := of_decide_eq_true hi
    cases hw; cases hr
    rw [CommandRow.selectedBy_iff (k := 6) rfl, cmdWord_toNat, BitVec.toNat_ofNat]
    show (8192 * 1 + 256 * 0 + len % 2 ^ 8) / 2 ^ 6 * 2 ^ 6 = 0x2000
    omega
  | ldname idx data =>
    have hdata := data.isLt
    have hidx := (BitVec.ofNat 5 idx).isLt
    cases hw; cases hr
    rw [CommandRow.selectedBy_iff (k := 13) rfl, cmdWord_toNat]
    show (8192 * 2 + 256 * (BitVec.ofNat 5 idx).toNat + data.toNat) / 2 ^ 13 * 2 ^ 13 = 0x4000
    omega
  | rdtok tidx =>
    have htidx : tidx < 128 := of_decide_eq_true hi
    cases hw; cases hr
    rw [CommandRow.selectedBy_iff (k := 7) rfl, cmdWord_toNat, BitVec.toNat_ofNat]
    show (8192 * 4 + 256 * 0 + tidx % 2 ^ 8) / 2 ^ 7 * 2 ^ 7 = 0x8000
    omega
  | _ => cases hr

/-- A row that takes one word only. -/
theorem eq_of_selectedBy {r : CommandRow} {w : PortWord} (hmask : r.mask = 0xFFFF)
    (h : r.selectedBy w = true) : w = r.value := by
  rw [CommandRow.selectedBy_iff (k := 0) hmask] at h
  exact BitVec.eq_of_toNat_eq (by simpa using h)

/-- The decoder reads a command of the row from every word a row selects. -/
theorem decodeCommand_of_selectedBy {w : PortWord} {r : CommandRow} (hr : r ∈ commandRows)
    (h : r.selectedBy w = true) : ∃ i, decodeCommand w = .ok i ∧ commandRowOf i = some r := by
  simp only [commandRows, List.mem_cons, List.not_mem_nil, or_false] at hr
  rcases hr with rfl | rfl | rfl | rfl | rfl | rfl | rfl
  · rw [eq_of_selectedBy rfl h]; exact ⟨.nop, rfl, rfl⟩
  · rw [CommandRow.selectedBy_iff (k := 6) rfl] at h
    replace h : w.toNat / 2 ^ 6 * 2 ^ 6 = 0x2000 := h
    have hcode : w.toNat / 8192 = 1 := by omega
    have hzero : cmdField w 6 7 = 0 := by rw [cmdField_eq]; omega
    exact ⟨.ldlen (cmdField w 0 6), by rw [decodeCommand, cmdField_code, hcode]; exact if_pos hzero, rfl⟩
  · rw [CommandRow.selectedBy_iff (k := 13) rfl] at h
    replace h : w.toNat / 2 ^ 13 * 2 ^ 13 = 0x4000 := h
    have hcode : w.toNat / 8192 = 2 := by omega
    exact ⟨.ldname (cmdField w 8 5) (w.extractLsb' 0 8),
      by rw [decodeCommand, cmdField_code, hcode]; rfl, rfl⟩
  · rw [eq_of_selectedBy rfl h]; exact ⟨.start, rfl, rfl⟩
  · rw [CommandRow.selectedBy_iff (k := 7) rfl] at h
    replace h : w.toNat / 2 ^ 7 * 2 ^ 7 = 0x8000 := h
    have hcode : w.toNat / 8192 = 4 := by omega
    have hzero : cmdField w 7 6 = 0 := by rw [cmdField_eq]; omega
    exact ⟨.rdtok (cmdField w 0 7), by rw [decodeCommand, cmdField_code, hcode]; exact if_pos hzero, rfl⟩
  · rw [eq_of_selectedBy rfl h]; exact ⟨.rdstat, rfl, rfl⟩
  · rw [eq_of_selectedBy rfl h]; exact ⟨.reset, rfl, rfl⟩

/-- Settles O4: a row selects the words its commands encode to; a word decodes to one command, which has one
row. -/
theorem commandRowsSelectWords : Obligations.CommandRowsSelectWords := by
  refine ⟨fun w r hr => ⟨decodeCommand_of_selectedBy hr, fun ⟨i, hd, hi⟩ => ?_⟩,
    fun w r hr r' hr' h h' => ?_⟩
  · exact selectedBy_of_encode (wellFormed_of_decodeCommand hd) (encode_of_decodeCommand hd) hi
  · obtain ⟨i, hd, hi⟩ := decodeCommand_of_selectedBy hr h
    obtain ⟨i', hd', hi'⟩ := decodeCommand_of_selectedBy hr' h'
    obtain rfl : i = i' := Except.ok.inj (hd.symm.trans hd')
    exact Option.some.inj (hi.symm.trans hi')

end Sys2Proof
end

section
/-! PROOFS. What a step that answers has done, whichever agent moved; and where a micro-operation writes
`BUF`. -/

namespace Sys2Proof.Machine

/-! ## The step by whose turn is next -/

section turn
variable {s t : State} {i : Instr} {w : PortWord} {e : DecodeError}

theorem step_hostTurn (ht : s.nextTurn = .host w) (hd : decodeCommand w = .ok i) :
    step s = exec i s.takeTurn := by rw [step, State.select, ht]; simp only [selectCommand, hd]

theorem step_hostTurn_reserved (ht : s.nextTurn = .host w) (hd : decodeCommand w = .error e) :
    step s = .next (respond s.takeTurn 0) := by rw [step, State.select, ht]; simp only [selectCommand, hd]; rfl

theorem step_sequencerTurn (ht : s.nextTurn = .sequencer) (hd : decodeUop s.upc = .ok i) :
    step s = exec i s.takeTurn := by rw [step, State.select, ht]; simp only [State.selectUop, hd]

theorem step_sequencerTurn_noStep (ht : s.nextTurn = .sequencer) (hd : decodeUop s.upc = .error e) :
    step s = .next s.takeTurn := by rw [step, State.select, ht]; simp only [State.selectUop, hd]

theorem step_resetPinTurn (ht : s.nextTurn = .resetPin) :
    step s = .next (respond (resetElements s.takeTurn) 0) := by rw [step, State.select, ht]; rfl

/-- What a step that answers can have done from `s`, its move taken off the schedule. -/
inductive StepCase (s t : State) : Prop where
  | command (i : Instr) (w : PortWord) (hw : encode i = .command w) (h : exec i s = .next t)
  | reserved (h : t = respond s 0)
  | uop (i : Instr) (hc : encode i = .uop s.upc) (h : exec i s = .next t)
  | noStep (h : t = s)
  | resetPin (h : t = respond (resetElements s) 0)

theorem step_next_cases (h : step s = .next t) : StepCase s.takeTurn t := by
  cases ht : s.nextTurn with
  | host w =>
    cases hd : decodeCommand w with
    | error e => rw [step_hostTurn_reserved ht hd] at h; cases h; exact .reserved rfl
    | ok i => exact .command i w (encode_of_decodeCommand hd) (step_hostTurn ht hd ▸ h)
  | sequencer =>
    cases hd : decodeUop s.upc with
    | error e => rw [step_sequencerTurn_noStep ht hd] at h; cases h; exact .noStep rfl
    | ok i => exact .uop i (encode_of_decodeUop hd) (step_sequencerTurn ht hd ▸ h)
  | resetPin => rw [step_resetPinTurn ht] at h; cases h; exact .resetPin rfl

end turn

/-! ## Micro-operations: codes, writes, moves -/

/-- The codes of the micro-operations (R55). -/
theorem uop_code_range {i : Instr} {c : UopCode} (hc : encode i = .uop c) :
    1 ≤ c.toNat ∧ c.toNat ≤ 18 := by
  cases i with
  | nop | ldlen | ldname | start | rdtok | rdstat | reset => cases hc
  | _ => cases hc; decide

/-- The operation selected by a code that is known. -/
theorem eq_of_code {i j : Instr} {c : UopCode} {k : Nat} (hc : encode i = .uop c) (hk : c.toNat = k)
    (hj : decodeUop (BitVec.ofNat 5 k) = .ok j) : i = j :=
  uop_unique hc (by rwa [← hk, BitVec.ofNat_toNat, BitVec.setWidth_eq] at hj)

/-- The indices of `BUF` the operation with code `c` writes, but for ASM.CLR, which writes all. -/
def WritesBufAt (c : Nat) (s : State) (a : Nat) : Prop :=
  c = 2 ∧ a = 0 ∨ c = 3 ∧ 1 ≤ a ∧ a < 5 ∨ c = 4 ∧ 9 ≤ a ∧ a < 9 + s.n ∨
    7 ≤ c ∧ c ≤ 11 ∧ a = 9 + s.n + (c - 6) ∨ c = 14 ∧ 5 ≤ a ∧ a < 9 ∨ c = 15 ∧ a = s.pos

theorem dataEffect_bufAt_of_not_writes {i : Instr} {c : UopCode} {s : State} {k a : Nat}
    (hc : encode i = .uop c) (hk : c.toNat = k) (h1 : k ≠ 1) (h : ¬ WritesBufAt k s a) :
    (dataEffect i s).bufAt a = s.bufAt a := by
  have htr := s.tr_eq
  have hname : s.nameBytes.length = s.n := Store.length_readBlock ..
  have write {j : Nat} {v : Byte} (hj : a ≠ j) : (s.setBuf (s.mem.buf.write j v)).bufAt a = s.bufAt a :=
    Store.read_write_ne s.mem.buf v hj
  have writeBlock {j : Nat} {vs : List Byte} (hj : a < j ∨ j + vs.length ≤ a) :
      (s.setBuf (s.mem.buf.writeBlock j vs)).bufAt a = s.bufAt a := Store.read_writeBlock_outside vs _ hj
  rw [WritesBufAt] at h
  cases i with
  | asmClr => cases hc; exact absurd hk.symm h1
  | asmTag => cases hc; obtain rfl : k = 2 := hk.symm; exact writeBlock (show a < 0 ∨ 0 + 1 ≤ a by omega)
  | asmLic => cases hc; obtain rfl : k = 3 := hk.symm; exact writeBlock (show a < 1 ∨ 1 + 4 ≤ a by omega)
  | asmBody => cases hc; obtain rfl : k = 4 := hk.symm; exact writeBlock (by omega)
  | trlT1 => cases hc; obtain rfl : k = 7 := hk.symm; exact write (by omega)
  | trlT2 => cases hc; obtain rfl : k = 8 := hk.symm; exact write (by omega)
  | trlT3 => cases hc; obtain rfl : k = 9 := hk.symm; exact write (by omega)
  | trlT4 => cases hc; obtain rfl : k = 10 := hk.symm; exact write (by omega)
  | trlT5 => cases hc; obtain rfl : k = 11 := hk.symm; exact write (by omega)
  | chkWr => cases hc; obtain rfl : k = 14 := hk.symm; exact writeBlock (show a < 5 ∨ 5 + 4 ≤ a by omega)
  | obfStep => cases hc; obtain rfl : k = 15 := hk.symm; exact write (by omega)
  | chkStep => exact State.setH_bufAt ..
  | nop | ldlen | ldname | start | rdtok | rdstat | reset => cases hc
  | _ => rfl

/-- Where a micro-operation leads: to ERROR, on in its loop, or to the next code. -/
theorem advance_upc_toNat {i : Instr} {s : State} (hc : encode i = .uop s.upc) :
    (advance i (dataEffect i s)).upc.toNat = 20 ∨
    (s.upc.toNat = 13 ∨ s.upc.toNat = 15 ∨ s.upc.toNat = 17) ∧
      (advance i (dataEffect i s)).upc.toNat = s.upc.toNat ∨
    (advance i (dataEffect i s)).upc.toNat = s.upc.toNat + 1 := by
  rcases advance_cases i (dataEffect i s) with ⟨-, -, heq⟩ | ⟨hl, -, heq⟩ | ⟨-, -, heq⟩ <;> rw [heq]
  · exact .inl rfl
  · exact .inr (.inl ⟨(isLoop_iff_of_encode hc).mp hl, by rw [State.setI_upc, dataEffect_upc]⟩)
  · refine .inr (.inr ?_)
    rw [nextUop_upc, dataEffect_upc, upc_add_one_toNat (uop_code_range hc).2]

end Sys2Proof.Machine
end

section
/-! PROOFS. The machine's invariant: it holds at reset and every step of either agent or of the reset pin keeps
it, so a step stops at a refused START alone (spec/10_state.md section 3, spec/20_memory.md rule R40). -/

namespace Sys2Proof.Machine

/-! ## The canonical form of the stores -/

@[simp] theorem State.setH_mem (s : State) (v : Word) : (s.setH v).mem = s.mem := rfl

/-- Every operation that answers keeps the stores in canonical form. -/
theorem exec_mem_wf {i : Instr} {s t : State} (h : exec i s = .next t) (hw : s.mem.wf = true) :
    t.mem.wf = true := by
  obtain ⟨hname, hbuf, htok⟩ := (Memory.wf_iff _).mp hw
  have byte {a : Nat} {v : Byte} (ha : a < 47) : (s.setBuf (s.mem.buf.write a v)).mem.wf = true :=
    setBuf_mem_wf hw (Store.wf_write v ha hbuf)
  have block {a : Nat} {vs : List Byte} (ha : a + vs.length ≤ 47) :
      (s.setBuf (s.mem.buf.writeBlock a vs)).mem.wf = true :=
    setBuf_mem_wf hw (Store.wf_writeBlock vs ha hbuf)
  have chars {a : Nat} {vs : List Byte} (ha : a + vs.length ≤ 96) :
      (s.setTok (s.mem.tok.writeBlock a vs)).mem.wf = true :=
    setTok_mem_wf hw (Store.wf_writeBlock vs ha htok)
  cases i with
  | asmClr => cases h; exact setBuf_mem_wf hw (Store.wf_zeroed 47)
  | asmTag => rw [execAsmTag_next h]; exact block (vs := [0x70]) (by decide)
  | asmLic => rw [execAsmLic_next h]; exact block (vs := [0xFF, 0x39, 0x65, 0x03]) (by decide)
  | asmBody =>
    obtain ⟨hn, rfl⟩ := execAsmBody_next h
    exact block (by rw [State.nameBytes, Store.length_readBlock]; omega)
  | trlT1 | trlT2 | trlT3 | trlT4 | trlT5 => obtain ⟨ha, rfl⟩ := writeTrailer_next h; exact byte ha
  | chkWr => rw [execChkWr_next h]; exact block (by rw [length_le32]; decide)
  | obfStep => obtain ⟨ha, rfl⟩ := execObfStep_next h; rw [loopUop_mem]; exact byte ha
  | fmtOpen => rw [execFmtOpen_next h]; exact chars (vs := [0x3C]) (by decide)
  | fmtByte =>
    obtain ⟨ha, rfl⟩ := execFmtByte_next h
    rw [loopUop_mem]
    exact chars (show 1 + 2 * s.pos + 2 ≤ 96 by omega)
  | fmtClose => obtain ⟨ha, rfl⟩ := execFmtClose_next h; exact chars (vs := [0x3E]) ha
  | trlDen => rcases execTrlDen_next h with ⟨-, rfl⟩ | ⟨-, rfl⟩ <;> exact hw
  | chkStep => rw [(execChkStep_next h).2, loopUop_mem, State.setH_mem]; exact hw
  | trlQ | chkInit | nop | rdstat => cases h; exact hw
  | ldlen => rcases execLdlen_next h with ⟨-, rfl⟩ | ⟨-, rfl⟩ <;> exact hw
  | ldname idx data =>
    rcases execLdname_next h with ⟨-, rfl⟩ | ⟨-, hidx, rfl⟩
    · exact hw
    · exact setName_mem_wf hw (Store.wf_write data hidx hname)
  | start => rcases execStart_next h with ⟨-, rfl⟩ | ⟨-, -, rfl⟩ <;> exact hw
  | rdtok => rcases execRdtok_next h with ⟨-, -, -, rfl⟩ | ⟨-, rfl⟩ <;> exact hw
  | reset => cases h; exact reset_mem_wf

/-! ## Where no run is under way, and moves that leave the elements alone -/

/-- In IDLE and in ERROR the invariant asks for little. -/
theorem inv_of_stopped {s : State} (hw : s.mem.wf = true) (hi : s.i = 0) (htlen : s.tlen = 0)
    (hupc : s.upc.toNat = 0 ∨ s.upc.toNat = 20 ∧ s.denom = 0) : Inv s := by
  have code {c : UopCode} (h : s.upc = c) : s.upc.toNat = c.toNat := congrArg BitVec.toNat h
  refine
    { memCanonical := hw
      upcLegal := by omega
      runLenOk := fun hb => ?_
      posZero := fun _ => hi
      posInside := fun hl => ?_
      tlenBefore := fun _ => htlen
      tlenBytes := fun h => ?_
      tlenClose := fun h => ?_
      tlenDone := fun h => ?_
      tlenError := fun _ => htlen
      divisorNonzero := fun h => ?_
      divisorError := fun h => ?_
      tailZero := fun h2 h18 => ?_ }
  · have := s.busy_iff.mp hb; omega
  · have := s.inLoop_iff_toNat.mp hl; omega
  · have : s.upc.toNat = 17 := code h; omega
  · have : s.upc.toNat = 18 := code h; omega
  · have : s.upc.toNat = 19 := code h; omega
  · have : s.upc.toNat = 6 := code h; omega
  · have : s.upc.toNat = 20 := code h; exact (hupc.resolve_left (by omega)).2
  · omega

theorem inv_resetElements (s : State) (v : PortWord) : Inv (respond (resetElements s) v) :=
  inv_of_stopped reset_mem_wf rfl rfl (.inl rfl)

theorem Inv.setTurns {s : State} (h : Inv s) (ts : List Turn) : Inv (s.setTurns ts) := { h with }

theorem Inv.respond {s : State} (h : Inv s) (v : PortWord) : Inv (respond s v) := { h with }

/-! ## The host's commands -/

/-- While no run is under way, the name and its length are free. -/
theorem Inv.loadName {s : State} (h : Inv s) (hb : s.busy = false) {m : Store} (hm : m.wf 32 = true)
    (v : BitVec 6) : Inv ((s.setName m).setNlen v) := by
  have hnot : ¬ (1 ≤ s.upc.toNat ∧ s.upc.toNat ≤ 18) := by rw [← s.busy_iff, hb]; nofun
  refine
    { h with
      memCanonical := setName_mem_wf h.memCanonical hm
      runLenOk := fun hb' => absurd (hb'.symm.trans hb) (by decide)
      posInside := fun hl => ?_
      tlenClose := fun h18 => ?_
      tailZero := fun h2 h18 => ?_ }
  · have := s.inLoop_iff_toNat.mp hl; omega
  · have : s.upc.toNat = 18 := congrArg BitVec.toNat h18; omega
  · have : 2 ≤ s.upc.toNat := h2
    have : s.upc.toNat ≤ 18 := h18
    omega

/-- An accepted START leaves the state before ASM.CLR, with a legal length. -/
theorem Inv.beginRun {s : State} (h : Inv s) (hl : s.lenOk = true) : Inv (Machine.beginRun s) where
  memCanonical := h.memCanonical
  upcLegal := by simp [Machine.beginRun]
  runLenOk := fun _ => hl
  posZero := fun _ => rfl
  posInside := fun hloop => absurd ((Machine.beginRun s).inLoop_iff_toNat.mp hloop)
    (show ¬ (1 = 13 ∨ 1 = 15 ∨ 1 = 17) by decide)
  tlenBefore := fun _ => rfl
  tlenBytes := fun h17 => absurd h17 (show (1 : UopCode) ≠ 17 by decide)
  tlenClose := fun h18 => absurd h18 (show (1 : UopCode) ≠ 18 by decide)
  tlenDone := fun h19 => absurd h19 (show (1 : UopCode) ≠ 19 by decide)
  tlenError := fun _ => rfl
  divisorNonzero := fun h6 => absurd h6 (show (1 : UopCode) ≠ 6 by decide)
  divisorError := fun h20 => absurd h20 (show (1 : UopCode) ≠ 20 by decide)
  tailZero := fun h2 => absurd h2 (show ¬ 2 ≤ 1 by decide)

section step
variable {s t : State} {i : Instr}

theorem inv_command {w : PortWord} (hs : Inv s) (hw : encode i = .command w) (h : exec i s = .next t) :
    Inv t := by
  have hname : s.mem.name.wf 32 = true := ((Memory.wf_iff _).mp hs.memCanonical).1
  cases i with
  | nop | rdstat => cases h; exact hs.respond _
  | ldlen len =>
    rcases execLdlen_next h with ⟨-, rfl⟩ | ⟨hb, rfl⟩
    · exact hs.respond 0
    · exact (hs.loadName hb hname _).respond 0
  | ldname idx data =>
    rcases execLdname_next h with ⟨-, rfl⟩ | ⟨hb, hidx, rfl⟩
    · exact hs.respond 0
    · exact (hs.loadName hb (Store.wf_write data hidx hname) s.nlen).respond 0
  | start =>
    rcases execStart_next h with ⟨-, rfl⟩ | ⟨-, hl, rfl⟩
    · exact hs.respond 0
    · exact (hs.beginRun hl).respond 0
  | rdtok => rcases execRdtok_next h with ⟨-, -, -, rfl⟩ | ⟨-, rfl⟩ <;> exact hs.respond _
  | reset => cases h; exact inv_resetElements s 0
  | _ => cases hw

/-! ## The micro-operations -/

/-- In a run the length is legal and `I` is a position of the KeyBuffer. -/
theorem Inv.inRun (hs : Inv s) (hc : encode i = .uop s.upc) : (5 ≤ s.n ∧ s.n ≤ 32) ∧ s.pos < s.len := by
  have hlen := s.len_eq
  refine ⟨s.lenOk_iff.mp (hs.runLenOk (s.busy_iff.mpr (uop_code_range hc))), ?_⟩
  by_cases hl : s.inLoop
  · exact hs.posInside hl
  · rw [show s.pos = 0 from congrArg BitVec.toNat (hs.posZero hl)]; omega

/-- Only the Hex Formatter writes `TLEN`. -/
theorem dataEffect_tlen_of_lt {c : UopCode} (hc : encode i = .uop c) (h : c.toNat < 16) :
    (dataEffect i s).tlen = s.tlen := by
  cases i with
  | fmtOpen | fmtByte | fmtClose => cases hc; exact absurd h (by decide)
  | chkStep => exact State.setH_tlen ..
  | _ => rfl

theorem dataEffect_fmtClose_tlen (hc : encode i = .uop s.upc) (h18 : s.upc.toNat = 18) (hn : s.n ≤ 32) :
    (dataEffect i s).tlen.toNat = 2 * s.len + 2 := by
  obtain rfl : i = .fmtClose := eq_of_code hc h18 rfl
  have hlen := s.len_eq
  show (BitVec.ofNat 7 (2 * s.len + 2)).toNat = _
  rw [BitVec.toNat_ofNat]; omega

/-- ASM.CLR zeroes all of `BUF`, and no operation writes above the KeyBuffer. -/
theorem Inv.dataEffect_tail (hs : Inv s) (hc : encode i = .uop s.upc) {a : Nat} (ha : s.len ≤ a)
    (h47 : a < 47) : (dataEffect i s).bufAt a = 0 := by
  obtain ⟨hn, hpos⟩ := hs.inRun hc
  obtain ⟨h1, h18⟩ := uop_code_range hc
  have hlen := s.len_eq
  by_cases hclr : s.upc.toNat = 1
  · obtain rfl : i = .asmClr := eq_of_code hc hclr rfl
    exact Store.read_zeroed a
  · rw [dataEffect_bufAt_of_not_writes hc rfl hclr (by rw [WritesBufAt]; omega)]
    exact hs.tailZero (by omega) h18 a ha h47

theorem Inv.dataEffect_tlen (hs : Inv s) (hc : encode i = .uop s.upc) (h : s.upc.toNat < 16) :
    (dataEffect i s).tlen = 0 :=
  (dataEffect_tlen_of_lt hc h).trans (hs.tlenBefore (by omega))

/-- Inside a loop: `I` is one more, and still a position of the KeyBuffer. -/
theorem Inv.loopMove (hs : Inv s) (hc : encode i = .uop s.upc) (hl : i.isLoop = true)
    (hp : s.pos + 1 < s.len) (hwf : (dataEffect i s).mem.wf = true) :
    Inv ((dataEffect i s).setI ((dataEffect i s).i + 1)) := by
  obtain ⟨hn, hpos⟩ := hs.inRun hc
  have hlen := s.len_eq
  have hcode := (isLoop_iff_of_encode hc).mp hl
  have hpos' : ((dataEffect i s).setI ((dataEffect i s).i + 1)).pos = s.pos + 1 := by
    rw [pos_setI_add_one (by rw [dataEffect_pos]; omega), dataEffect_pos]
  have hupc : ((dataEffect i s).setI ((dataEffect i s).i + 1)).upc = s.upc := dataEffect_upc i s
  have code {c : UopCode} (h : ((dataEffect i s).setI ((dataEffect i s).i + 1)).upc = c) :
      s.upc.toNat = c.toNat := congrArg BitVec.toNat (hupc ▸ h)
  refine
    { memCanonical := hwf
      upcLegal := by rw [hupc]; omega
      runLenOk := fun _ => by rw [State.setI_lenOk, State.lenOk_iff, dataEffect_n]; exact hn
      posZero := fun h => absurd ((State.inLoop_iff_toNat _).mpr (hupc ▸ hcode)) h
      posInside := fun _ => by rw [hpos', State.setI_len, dataEffect_len]; exact hp
      tlenBefore := fun h => hs.dataEffect_tlen hc (by rw [hupc] at h; omega)
      tlenBytes := fun h => ?_
      tlenClose := fun h => ?_
      tlenDone := fun h => ?_
      tlenError := fun h => ?_
      divisorNonzero := fun h => ?_
      divisorError := fun h => ?_
      tailZero := fun _ _ a ha => hs.dataEffect_tail hc (dataEffect_len i s ▸ ha) }
  · have := dataEffect_fmtByte_tlen hc (code h) (by omega)
    rw [hpos', State.setI_tlen]; omega
  · have : s.upc.toNat = 18 := code h; omega
  · have : s.upc.toNat = 19 := code h; omega
  · have : s.upc.toNat = 20 := code h; omega
  · have : s.upc.toNat = 6 := code h; omega
  · have : s.upc.toNat = 20 := code h; omega

/-- `next`: what the operation with the next code asks for. -/
theorem Inv.nextMove (hs : Inv s) (hc : encode i = .uop s.upc)
    (hd : ¬ (i = .trlDen ∧ (dataEffect i s).denom = 0)) (hp : i.isLoop = true → s.len ≤ s.pos + 1)
    (hwf : (dataEffect i s).mem.wf = true) : Inv (nextUop (dataEffect i s)) := by
  obtain ⟨hn, hpos⟩ := hs.inRun hc
  obtain ⟨h1, h18⟩ := uop_code_range hc
  have hlen := s.len_eq
  have hupc : (nextUop (dataEffect i s)).upc.toNat = s.upc.toNat + 1 := by
    rw [nextUop_upc, dataEffect_upc, upc_add_one_toNat h18]
  have code {c : UopCode} (h : (nextUop (dataEffect i s)).upc = c) : s.upc.toNat + 1 = c.toNat := by
    rw [← hupc, h]
  refine
    { memCanonical := hwf
      upcLegal := by omega
      runLenOk := fun _ => by rw [State.lenOk_iff, nextUop_n, dataEffect_n]; exact hn
      posZero := fun _ => rfl
      posInside := fun _ => by rw [nextUop_len, dataEffect_len]; exact Nat.zero_lt_of_lt hpos
      tlenBefore := fun h => hs.dataEffect_tlen hc (by omega)
      tlenBytes := fun h => dataEffect_fmtOpen_tlen hc (Nat.succ.inj (code h))
      tlenClose := fun h => ?_
      tlenDone := fun h => ?_
      tlenError := fun h => ?_
      divisorNonzero := fun h hz => hd ⟨(eq_trlDen_iff_of_encode hc).mpr (Nat.succ.inj (code h)), hz⟩
      divisorError := fun h => ?_
      tailZero := fun _ _ a ha => hs.dataEffect_tail hc (dataEffect_len i s ▸ ha) }
  · have h17 : s.upc.toNat = 17 := Nat.succ.inj (code h)
    have htlen := dataEffect_fmtByte_tlen hc h17 (by omega)
    have hlast := hp ((isLoop_iff_of_encode hc).mpr (by omega))
    rw [nextUop_tlen, nextUop_len, dataEffect_len]; omega
  · have htlen := dataEffect_fmtClose_tlen hc (Nat.succ.inj (code h)) hn.2
    rw [nextUop_tlen]; omega
  · have : s.upc.toNat + 1 = 20 := code h; omega
  · have : s.upc.toNat + 1 = 20 := code h; omega

/-- A micro-operation keeps the invariant, whichever of its three moves it makes. -/
theorem inv_uop (hs : Inv s) (hc : encode i = .uop s.upc) (h : exec i s = .next t) : Inv t := by
  have hwf := exec_mem_wf h hs.memCanonical
  obtain ⟨rfl, -⟩ := exec_uop_next hc h
  rw [advance_mem] at hwf
  rcases advance_cases i (dataEffect i s) with ⟨rfl, -, heq⟩ | ⟨hl, hp, heq⟩ | ⟨hd, hp, heq⟩ <;>
    rw [heq]
  · have h5 := (eq_trlDen_iff_of_encode hc).mp rfl
    exact inv_of_stopped hwf rfl (hs.dataEffect_tlen hc (by omega)) (.inr ⟨rfl, rfl⟩)
  · rw [dataEffect_pos, dataEffect_len] at hp
    exact hs.loopMove hc hl hp hwf
  · rw [dataEffect_pos, dataEffect_len] at hp
    exact hs.nextMove hc hd hp hwf

end step

/-- Settles O47: by what the step has done, whichever agent moved. -/
theorem stepKeepsInvariant : Obligations.StepKeepsInvariant := by
  intro s t hs h
  have hs' : Inv s.takeTurn := hs.setTurns _
  cases step_next_cases h with
  | command i w hw h => exact inv_command hs' hw h
  | reserved h => exact h ▸ hs'.respond 0
  | uop i hc h => exact inv_uop hs' hc h
  | noStep h => exact h ▸ hs'
  | resetPin h => exact h ▸ inv_resetElements _ 0

/-! ## The stops -/

section answers
variable {s : State} {i : Instr}

theorem execLdname_inside {idx : Nat} (hb : s.busy = false) (data : Byte) (hidx : idx < 32) :
    execLdname idx data s = .next (respond (s.setName (s.mem.name.write idx data)) 0) := by
  rw [execLdname, if_neg (by simp [hb]), storeName_inside data hidx]; rfl

/-- A decoded command is answered, but for a START that is to be refused: LDNAME's index is one `NAME` has,
RDTOK's one `TOK` has, `TLEN` being at most 96 in DONE. -/
theorem Inv.exec_command_answers (hs : Inv s) {w : PortWord} (hw : encode i = .command w)
    (hi : i.wellFormed = true) : (∃ t, exec i s = .next t) ∨
      (exec i s = .refused .startLengthOutOfRange ∧ i = .start ∧ Quiescent s ∧ ¬ LenOk s) := by
  cases i with
  | nop | rdstat | reset => exact .inl ⟨_, rfl⟩
  | ldlen len =>
    left
    cases hb : s.busy with
    | true => exact ⟨_, if_pos hb⟩
    | false => exact ⟨_, if_neg (by simp [hb])⟩
  | ldname idx data =>
    left
    cases hb : s.busy with
    | true => exact ⟨_, if_pos hb⟩
    | false => exact ⟨_, execLdname_inside hb data (of_decide_eq_true hi)⟩
  | start =>
    cases hb : s.busy with
    | true => exact .inl ⟨_, if_pos hb⟩
    | false =>
      cases hl : s.lenOk with
      | true => exact .inl ⟨_, execStart_accepted hb hl⟩
      | false => exact .inr ⟨by simp [exec, execStart, hb, hl], rfl, hb, by simp [LenOk, hl]⟩
  | rdtok tidx =>
    left
    by_cases hread : (s.isDone && decide (tidx < s.tlen.toNat)) = true
    · have h := hread
      rw [Bool.and_eq_true, s.isDone_iff, decide_eq_true_eq] at h
      obtain ⟨-, h96, -⟩ := hs.tlenDone h.1
      exact ⟨_, (if_pos hread).trans (loadTok_inside _ (by omega))⟩
    · exact ⟨_, if_neg hread⟩
  | _ => cases hw

end answers

/-- Settles O49: in a run every index is inside its store; a reserved word, a turn without an operation and the
pin are always answered. -/
theorem stepStopsOnlyAtRefusedStart : Obligations.StepStopsOnlyAtRefusedStart := by
  intro s hs
  have hs' : Inv s.takeTurn := hs.setTurns _
  cases ht : s.nextTurn with
  | host w =>
    cases hd : decodeCommand w with
    | error e => exact .inl ⟨_, step_hostTurn_reserved ht hd⟩
    | ok i =>
      have hw := encode_of_decodeCommand hd
      rw [step_hostTurn ht hd]
      refine (hs'.exec_command_answers hw (wellFormed_of_decodeCommand hd)).imp_right ?_
      rintro ⟨hrefused, rfl, hq, hl⟩
      cases hw
      exact ⟨hrefused, rfl, hq, hl⟩
  | sequencer =>
    cases hd : decodeUop s.upc with
    | error e => exact .inl ⟨_, step_sequencerTurn_noStep ht hd⟩
    | ok i =>
      have hc := encode_of_decodeUop hd
      obtain ⟨hn, hpos⟩ := hs.inRun hc
      exact .inl ⟨_, (step_sequencerTurn ht hd).trans (exec_uop (s := s.takeTurn) hc hn.2 hpos)⟩
  | resetPin => exact .inl ⟨_, step_resetPinTurn ht⟩

end Sys2Proof.Machine
end

section
/-! PROOFS. The layout of the buffer: every step keeps the map of spec/20_memory.md rule R33 from the stage that
lays a field down to the end of the Checksum Computer. -/

namespace Sys2Proof.Machine

/-! ## Where nothing is laid down, and moves that leave the elements alone -/

/-- Before the end of ASM.CLR and after CHK.WR the map says nothing. -/
theorem layout_of_outside {s : State} (h : s.upc.toNat < 2 ∨ 14 < s.upc.toNat) : Layout s where
  tag := fun _ _ => by omega
  license := fun _ _ => by omega
  checksumZero := fun _ _ => by omega
  body := fun _ _ => by omega
  trailerFirst := fun _ _ => by omega
  trailerUnwritten := fun _ _ => by omega

/-- Settles O46: at reset `UPC`, `I` and `TLEN` are 0, and the map speaks of later stages only. -/
theorem resetMeetsInvariants : Obligations.ResetMeetsInvariants :=
  ⟨inv_of_stopped reset_mem_wf rfl rfl (.inl rfl), layout_of_outside (.inl Nat.two_pos)⟩

theorem Layout.setTurns {s : State} (h : Layout s) (ts : List Turn) : Layout (s.setTurns ts) := { h with }

theorem Layout.respond {s : State} (h : Layout s) (v : PortWord) : Layout (respond s v) := { h with }

section step
variable {s t : State} {i : Instr}

theorem layout_of_not_busy (hb : s.busy = false) : Layout s := by
  have hnot : ¬ (1 ≤ s.upc.toNat ∧ s.upc.toNat ≤ 18) := by rw [← s.busy_iff, hb]; nofun
  exact layout_of_outside (by omega)

/-- The host loads a name or begins a run only while no run is under way. -/
theorem layout_command {w : PortWord} (hs : Layout s) (hw : encode i = .command w) (h : exec i s = .next t) :
    Layout t := by
  cases i with
  | nop | rdstat => cases h; exact hs.respond _
  | ldlen len =>
    rcases execLdlen_next h with ⟨-, rfl⟩ | ⟨hb, rfl⟩
    · exact hs.respond 0
    · exact layout_of_not_busy hb
  | ldname idx data =>
    rcases execLdname_next h with ⟨-, rfl⟩ | ⟨hb, -, rfl⟩
    · exact hs.respond 0
    · exact layout_of_not_busy hb
  | start =>
    rcases execStart_next h with ⟨-, rfl⟩ | ⟨-, -, rfl⟩
    · exact hs.respond 0
    · exact layout_of_outside (.inl Nat.one_lt_two)
  | rdtok => rcases execRdtok_next h with ⟨-, -, -, rfl⟩ | ⟨-, rfl⟩ <;> exact hs.respond _
  | reset => cases h; exact layout_of_outside (.inl Nat.two_pos)
  | _ => cases hw

/-! ## The operations that lay a field down -/

theorem dataEffect_asmClr_bufAt (hc : encode i = .uop s.upc) (h1 : s.upc.toNat = 1) (a : Nat) :
    (dataEffect i s).bufAt a = 0 := by
  obtain rfl : i = .asmClr := eq_of_code hc h1 rfl
  exact Store.read_zeroed a

theorem dataEffect_asmTag_bufAt (hc : encode i = .uop s.upc) (h2 : s.upc.toNat = 2) :
    (dataEffect i s).bufAt 0 = 0x70 := by
  obtain rfl : i = .asmTag := eq_of_code hc h2 rfl
  exact Store.read_writeBlock_inside (k := 0) [0x70] s.mem.buf 0 (by decide)

theorem dataEffect_asmLic_bufAt (hc : encode i = .uop s.upc) (h3 : s.upc.toNat = 3) :
    (dataEffect i s).bufAt 1 = 0xFF ∧ (dataEffect i s).bufAt 2 = 0x39 ∧ (dataEffect i s).bufAt 3 = 0x65 ∧
      (dataEffect i s).bufAt 4 = 0x03 := by
  obtain rfl : i = .asmLic := eq_of_code hc h3 rfl
  have hbyte {k : Nat} (hk : k < 4) : (s.mem.buf.writeBlock 1 [0xFF, 0x39, 0x65, 0x03]).read (1 + k) =
      [0xFF, 0x39, 0x65, 0x03].getD k 0 := Store.read_writeBlock_inside _ _ _ hk
  exact ⟨hbyte (k := 0) (by decide), hbyte (k := 1) (by decide), hbyte (k := 2) (by decide),
    hbyte (k := 3) (by decide)⟩

theorem dataEffect_asmBody_bufAt (hc : encode i = .uop s.upc) (h4 : s.upc.toNat = 4) {a : Nat} (ha : a < s.n) :
    (dataEffect i s).bufAt (9 + a) = s.nameAt a := by
  obtain rfl : i = .asmBody := eq_of_code hc h4 rfl
  have hname : s.nameBytes.length = s.n := Store.length_readBlock ..
  refine (Store.read_writeBlock_inside s.nameBytes s.mem.buf 9 (by omega)).trans ?_
  rw [State.nameBytes, Store.getD_readBlock _ _ _ _ ha, Nat.zero_add]; rfl

/-- A micro-operation keeps the map: each field is laid down by the operation before the map first names it, and
no later operation writes there, CHK.WR apart, after which the map says nothing. -/
theorem layout_uop (hinv : Inv s) (hs : Layout s) (hc : encode i = .uop s.upc) (h : exec i s = .next t) :
    Layout t := by
  obtain ⟨hn, -⟩ := hinv.inRun hc
  have htr := s.tr_eq
  obtain ⟨rfl, -⟩ := exec_uop_next hc h
  have hupc := advance_upc_toNat hc
  have hbuf (a : Nat) : (advance i (dataEffect i s)).bufAt a = (dataEffect i s).bufAt a := by simp [State.bufAt]
  have hn' : (advance i (dataEffect i s)).n = s.n := by simp [State.n]
  have hname (a : Nat) : (advance i (dataEffect i s)).nameAt a = s.nameAt a := by simp [State.nameAt]
  have htr' : (advance i (dataEffect i s)).tr = s.tr := congrArg (9 + ·) hn'
  have keep {a : Nat} (h1 : s.upc.toNat ≠ 1) (ha : ¬ WritesBufAt s.upc.toNat s a) :
      (dataEffect i s).bufAt a = s.bufAt a := dataEffect_bufAt_of_not_writes hc rfl h1 ha
  generalize advance i (dataEffect i s) = u at hupc hbuf hn' hname htr' ⊢
  refine
    { tag := fun h3 h14 => ?_
      license := fun h4 h14 => ?_
      checksumZero := fun h2 h14 a h5 h8 => ?_
      body := fun h5 h14 a ha => ?_
      trailerFirst := fun h2 h14 => ?_
      trailerUnwritten := fun h2 h7 j hj => ?_ }
  · rw [hbuf]
    by_cases hat : s.upc.toNat = 2
    · exact dataEffect_asmTag_bufAt hc hat
    · rw [keep (by omega) (by rw [WritesBufAt]; omega), hs.tag (by omega) (by omega)]
  · rw [hbuf, hbuf, hbuf, hbuf]
    by_cases hat : s.upc.toNat = 3
    · exact dataEffect_asmLic_bufAt hc hat
    · have hkeep {a : Nat} (h1 : 1 ≤ a) (h4 : a ≤ 4) : (dataEffect i s).bufAt a = s.bufAt a :=
        keep (by omega) (by rw [WritesBufAt]; omega)
      rw [hkeep (by decide) (by decide), hkeep (by decide) (by decide), hkeep (by decide) (by decide),
        hkeep (by decide) (by decide)]
      exact hs.license (by omega) (by omega)
  · rw [hbuf]
    by_cases hat : s.upc.toNat = 1
    · exact dataEffect_asmClr_bufAt hc hat a
    · rw [keep hat (by rw [WritesBufAt]; omega), hs.checksumZero (by omega) (by omega) a h5 h8]
  · rw [hn'] at ha
    rw [hbuf, hname]
    by_cases hat : s.upc.toNat = 4
    · exact dataEffect_asmBody_bufAt hc hat ha
    · rw [keep (by omega) (by rw [WritesBufAt]; omega), hs.body (by omega) (by omega) a ha]
  · rw [hbuf, htr']
    by_cases hat : s.upc.toNat = 1
    · exact dataEffect_asmClr_bufAt hc hat _
    · rw [keep hat (by rw [WritesBufAt]; omega), hs.trailerFirst (by omega) (by omega)]
  · rw [hbuf, htr']
    by_cases hat : s.upc.toNat = 1
    · exact dataEffect_asmClr_bufAt hc hat _
    · rw [keep hat (by rw [WritesBufAt]; omega), hs.trailerUnwritten (by omega) (by omega) j hj]

end step

/-- Settles O48: by what the step has done, whichever agent moved. -/
theorem stepKeepsLayout : Obligations.StepKeepsLayout := by
  intro s t hinv hs h
  have hs' : Layout s.takeTurn := hs.setTurns _
  cases step_next_cases h with
  | command i w hw h => exact layout_command hs' hw h
  | reserved h => exact h ▸ hs'.respond 0
  | uop i hc h => exact layout_uop (hinv.setTurns _) hs' hc h
  | noStep h => exact h ▸ hs'
  | resetPin h => exact h ▸ layout_of_outside (.inl Nat.two_pos)

end Sys2Proof.Machine
end

section
/-! PROOFS. What a step runs (spec/40_sequencer.md rules R67, R78), what the quotient is, where an operation
stops, and what the host sees (spec/60_exceptions.md rule R142). -/

namespace Sys2Proof.Machine

/-! ## What a step runs -/

/-- Settles O6: the step by the kind of its turn. -/
theorem stepRunsHostCommand : Obligations.StepRunsHostCommand := fun _ _ _ _ ht hd => step_host ht hd

/-- `UPC` selects a micro-operation exactly at their codes (R55, R59). -/
theorem decodeUop_ok_iff (c : UopCode) : (∃ i, decodeUop c = .ok i) ↔ 1 ≤ c.toNat ∧ c.toNat ≤ 18 :=
  ⟨fun ⟨_, hd⟩ => uop_code_range (encode_of_decodeUop hd),
    fun ⟨h1, h18⟩ => (decodeUop_of_busy h1 h18).imp fun _ h => h.1⟩

theorem decodeUop_error_of_not_range {c : UopCode} (h : ¬ (1 ≤ c.toNat ∧ c.toNat ≤ 18)) :
    ∃ e, decodeUop c = .error e := by
  cases hd : decodeUop c with
  | ok i => exact absurd ((decodeUop_ok_iff c).mp ⟨i, hd⟩) h
  | error e => exact ⟨e, rfl⟩

/-- Settles O7: the sequencer's turn, given or by an empty schedule, with an operation at `UPC` and without. -/
theorem stepRunsSequencerOperation : Obligations.StepRunsSequencerOperation := by
  refine ⟨fun _ _ _ ht hd => step_sequencer ht hd, fun _ _ ht hd => step_alone ht hd,
    fun s => decodeUop_ok_iff s.upc, fun s ts ht hn => ?_, fun s ht hn => ?_⟩
  · obtain ⟨e, hd⟩ := decodeUop_error_of_not_range hn
    exact step_noStep ht hd
  · obtain ⟨e, hd⟩ := decodeUop_error_of_not_range hn
    exact step_idle ht hd

/-! ## The quotient -/

theorem setQ_keepsAllBut (s : State) (v : Byte) : KeepsAllBut [.q] s (s.setQ v) := by
  intro e he
  cases e with
  | name | buf | tok => exact fun _ => rfl
  | nlen | h | denom | i | upc | tlen | response | turns => rfl
  | q => simp at he

/-- Settles O25: a write of `Q` and `next`. -/
theorem trlQAppliesQuotientFunction : Obligations.TrlQAppliesQuotientFunction :=
  ⟨rfl, fun s => ⟨_, rfl, rfl, rfl, rfl,
    (setQ_keepsAllBut s _).trans (setUpc_setI_keepsAllBut _ (s.upc + 1) 0)⟩⟩

/-- Settles O26: the byte operators in natural numbers; the known name's trailer bytes are closed terms. -/
theorem namedQuotientFunctions : Obligations.NamedQuotientFunctions := by
  refine ⟨fun b0 b1 d _ => ⟨?_, ?_⟩, by decide, by decide⟩
  · rw [qfnDoc, BitVec.toNat_udiv, BitVec.toNat_mul]
  · rw [qfnRem, BitVec.toNat_umod, BitVec.toNat_mul]

/-! ## The stops -/

theorem writeTrailer_outside {s : State} {j : Nat} (v : Byte) (h : 47 ≤ s.tr + j) :
    writeTrailer s j v = .fault (.bufIndexOutside (s.tr + j)) := by
  rw [writeTrailer, memWrite1, storeBuf_outside (show 47 < s.tr + j + 1 by omega)]; rfl

/-- Settles O43: each bounded access at its first index outside. -/
theorem indexOutsideStoreFaults : Obligations.IndexOutsideStoreFaults := by
  have trailer {s : State} {j : Nat} (v : Byte) (h : 38 ≤ s.n + j) :
      writeTrailer s j v = .fault (.bufIndexOutside (s.tr + j)) :=
    writeTrailer_outside v (by rw [s.tr_eq]; omega)
  refine ⟨fun s hn => ?_, fun s hn => trailer _ (by omega), fun s hn => trailer _ (by omega),
    fun s hn => trailer _ (by omega), fun s hn => trailer _ (by omega), fun s hn => trailer _ (by omega),
    fun s hp i hi => ?_, fun s hn => ?_, fun s tidx hdone h96 hlt => ?_⟩
  · rw [exec, execAsmBody, copyName, if_neg (Nat.not_le.mpr hn)]; rfl
  · rcases hi with rfl | rfl | rfl
    · rw [exec, execChkStep, loadBuf_outside _ hp]
    · rw [exec, execObfStep, loadBuf_outside _ hp]
    · rw [exec, execFmtByte, loadBuf_outside _ hp]
  · have hlen := s.len_eq
    rw [exec, execFmtClose, storeTok_outside (show 96 < 2 * s.len + 1 + 1 by omega)]; rfl
  · have hread : (s.isDone && decide (tidx < s.tlen.toNat)) = true := by
      rw [Bool.and_eq_true, s.isDone_iff, decide_eq_true_eq]
      exact ⟨hdone, hlt⟩
    rw [exec, execRdtok, if_pos hread, loadTok_outside _ h96]

/-! ## What the host sees -/

/-- The word an operation answers with, if it answers. -/
def answer : Out → Option PortWord
  | .next t => some t.response
  | .fault _ | .refused _ => none

theorem exists_next_iff (o : Out) : (∃ t, o = .next t) ↔ (answer o).isSome = true := by
  cases o <;> simp [answer]

theorem answer_andThen_respond (o : Out) (v : PortWord) :
    answer (andThen o fun t => respond t v) = (answer o).map fun _ => v := by
  cases o <;> rfl

section agree
variable {s s' : State}

theorem isDone_congr (h : s'.upc = s.upc) : s'.isDone = s.isDone := by rw [State.isDone, State.isDone, h]

theorem busy_congr (h : s'.upc = s.upc) : s'.busy = s.busy := by rw [State.busy, State.busy, h]

theorem statusWord_congr (hupc : s'.upc = s.upc) (htlen : s'.tlen = s.tlen) : s'.statusWord = s.statusWord := by
  rw [State.statusWord, State.statusWord, State.tlenVis, State.tlenVis, State.status, State.status, State.isErr,
    State.isErr, isDone_congr hupc, busy_congr hupc, hupc, htlen]

/-- A command answers by `NLEN`, `TOK`, `TLEN` and `UPC` alone. -/
theorem answer_exec_command {i : Instr} {w : PortWord} (hw : encode i = .command w)
    (h : AgreeOn [.nlen, .tok, .tlen, .upc] s s') : answer (exec i s') = answer (exec i s) := by
  have hnlen : s'.nlen = s.nlen := h .nlen (by decide)
  have htok (a : Nat) : s'.tokAt a = s.tokAt a := h .tok (by decide) a
  have htlen : s'.tlen = s.tlen := h .tlen (by decide)
  have hupc : s'.upc = s.upc := h .upc (by decide)
  have hdone := isDone_congr hupc
  have hbusy := busy_congr hupc
  cases i with
  | nop | reset => rfl
  | ldlen len => rw [exec, exec, execLdlen, execLdlen, hbusy]; cases s.busy <;> rfl
  | ldname idx data =>
    have hstore : (answer (storeName s' idx data)).map (fun _ => (0 : PortWord)) =
        (answer (storeName s idx data)).map fun _ => 0 := by
      rw [storeName, storeName]; split_ifs <;> rfl
    rw [exec, exec, execLdname, execLdname, hbusy]
    cases s.busy
    · exact (answer_andThen_respond ..).trans (hstore.trans (answer_andThen_respond ..).symm)
    · rfl
  | start =>
    have hlen : s'.lenOk = s.lenOk := by rw [State.lenOk, State.lenOk, State.n, State.n, hnlen]
    rw [exec, exec, execStart, execStart, hbusy, hlen]
    cases s.busy <;> cases s.lenOk <;> rfl
  | rdtok tidx =>
    rw [exec, exec, execRdtok, execRdtok, hdone, htlen, loadTok, loadTok, htok]
    split_ifs <;> rfl
  | rdstat => exact congrArg some (statusWord_congr hupc htlen)
  | _ => cases hw

end agree

/-- Settles O19: the two steps answer alike, whether the word is a command or reserved. -/
theorem hostCannotSeeIntermediates : Obligations.HostCannotSeeIntermediates := by
  intro s s' w ts ts' ht ht' hagree
  have hanswer : answer (step s') = answer (step s) := by
    cases hd : decodeCommand w with
    | error e => rw [step_reserved ht hd, step_reserved ht' hd]; rfl
    | ok i =>
      rw [step_host ht hd, step_host ht' hd]
      refine answer_exec_command (encode_of_decodeCommand hd) fun e he => ?_
      have := hagree e he
      cases e with
      | turns => simp at he
      | _ => exact this
  refine ⟨by rw [exists_next_iff, exists_next_iff, hanswer], fun t t' hstep hstep' => ?_⟩
  rw [hstep, hstep'] at hanswer
  exact (Option.some.inj hanswer).symm

end Sys2Proof.Machine
end

section
/-! PROOFS. The access table of spec/10_state.md rule R27: what an operation writes and what it reads. -/

namespace Sys2Proof.Machine

/-! ## Writes -/

theorem KeepsAllBut.mono {es fs : List Element} {s t : State} (h : KeepsAllBut es s t) (hsub : es ⊆ fs) :
    KeepsAllBut fs s t := fun e he => h e fun hm => he (hsub hm)

section frames
variable (s : State)

theorem setNlen_keepsAllBut (v : BitVec 6) : KeepsAllBut [.nlen] s (s.setNlen v) := by
  intro e he
  cases e with
  | name | buf | tok => exact fun _ => rfl
  | h | denom | q | i | upc | tlen | response | turns => rfl
  | nlen => simp at he

theorem setName_keepsAllBut (m : Store) : KeepsAllBut [.name] s (s.setName m) := by
  intro e he
  cases e with
  | buf | tok => exact fun _ => rfl
  | nlen | h | denom | q | i | upc | tlen | response | turns => rfl
  | name => simp at he

theorem beginRun_keepsAllBut : KeepsAllBut [.tlen, .upc, .i] s (beginRun s) := by
  intro e he
  cases e with
  | name | buf | tok => exact fun _ => rfl
  | nlen | h | denom | q | response | turns => rfl
  | tlen | upc | i => simp at he

/-- RESET leaves the schedule alone, and the word last returned. -/
theorem resetElements_keepsAllBut :
    KeepsAllBut [.name, .nlen, .buf, .h, .denom, .q, .i, .upc, .tok, .tlen] s (resetElements s) := by
  intro e he
  cases e with
  | response | turns => rfl
  | _ => simp at he

end frames

/-- Settles O44: the frames of an operation's writes, one after the other. -/
theorem operationsWriteOnlyTheirElements : Obligations.OperationsWriteOnlyTheirElements := by
  intro i s t h
  have answered {es : List Element} (hmem : .response ∈ es) : KeepsAllBut es s (respond s 0) :=
    (respond_keepsAllBut s 0).mono (by simpa using hmem)
  cases i with
  | asmClr => rw [execAsmClr_next h]; exact nextUop_setBuf_keepsAllBut s _
  | asmTag => rw [execAsmTag_next h]; exact nextUop_setBuf_keepsAllBut s _
  | asmLic => rw [execAsmLic_next h]; exact nextUop_setBuf_keepsAllBut s _
  | asmBody => rw [(execAsmBody_next h).2]; exact nextUop_setBuf_keepsAllBut s _
  | trlDen =>
    rcases execTrlDen_next h with ⟨-, rfl⟩ | ⟨-, rfl⟩
    · exact setDenom_setUpc_setI_keepsAllBut s 0 20 0
    · exact setDenom_setUpc_setI_keepsAllBut s _ _ 0
  | trlQ => rw [execTrlQ_next h]; exact (setQ_keepsAllBut s _).trans (setUpc_setI_keepsAllBut _ _ 0)
  | trlT1 | trlT2 | trlT3 | trlT4 | trlT5 => rw [(writeTrailer_next h).2]; exact nextUop_setBuf_keepsAllBut s _
  | chkInit => rw [execChkInit_next h]; exact (setH_keepsAllBut s 0).trans (setUpc_setI_keepsAllBut _ _ 0)
  | chkStep => rw [(execChkStep_next h).2]; exact (setH_keepsAllBut s _).trans (loopUop_keepsAllBut _)
  | chkWr => rw [execChkWr_next h]; exact nextUop_setBuf_keepsAllBut s _
  | obfStep => rw [(execObfStep_next h).2]; exact (setBuf_keepsAllBut s _).trans (loopUop_keepsAllBut _)
  | fmtOpen => rw [execFmtOpen_next h]; exact nextUop_setTok_setTlen_keepsAllBut s _ 1
  | fmtByte =>
    rw [(execFmtByte_next h).2]
    exact (setTok_setTlen_keepsAllBut s _ _).trans (loopUop_keepsAllBut _)
  | fmtClose => rw [(execFmtClose_next h).2]; exact nextUop_setTok_setTlen_keepsAllBut s _ _
  | nop | rdstat => cases h; exact respond_keepsAllBut s _
  | ldlen len =>
    rcases execLdlen_next h with ⟨-, rfl⟩ | ⟨-, rfl⟩
    · exact answered (by simp [Instr.writes])
    · exact (setNlen_keepsAllBut s _).trans (respond_keepsAllBut _ 0)
  | ldname idx data =>
    rcases execLdname_next h with ⟨-, rfl⟩ | ⟨-, -, rfl⟩
    · exact answered (by simp [Instr.writes])
    · exact (setName_keepsAllBut s _).trans (respond_keepsAllBut _ 0)
  | start =>
    rcases execStart_next h with ⟨-, rfl⟩ | ⟨-, -, rfl⟩
    · exact answered (by simp [Instr.writes])
    · exact (beginRun_keepsAllBut s).trans (respond_keepsAllBut _ 0)
  | rdtok =>
    rcases execRdtok_next h with ⟨-, -, -, rfl⟩ | ⟨-, rfl⟩ <;> exact respond_keepsAllBut s _
  | reset => cases h; exact (resetElements_keepsAllBut s).trans (respond_keepsAllBut _ 0)

/-! ## Reads -/

/-- Two stores after an operation from two others: each byte is the same in both, or as it was. -/
def BytesSameOrKept (m m' r r' : Store) : Prop :=
  ∀ a, r.read a = r'.read a ∨ (r.read a = m.read a ∧ r'.read a = m'.read a)

namespace BytesSameOrKept
variable (m m' : Store)

theorem kept : BytesSameOrKept m m' m m' := fun _ => .inr ⟨rfl, rfl⟩

theorem writeBlock (a : Nat) (vs : List Byte) :
    BytesSameOrKept m m' (m.writeBlock a vs) (m'.writeBlock a vs) := by
  intro b
  rw [Store.read_writeBlock, Store.read_writeBlock]
  split_ifs
  · exact .inl rfl
  · exact .inr ⟨rfl, rfl⟩

theorem write (a : Nat) (v : Byte) : BytesSameOrKept m m' (m.write a v) (m'.write a v) :=
  writeBlock m m' a [v]

end BytesSameOrKept

section uop
variable {s s' : State} {i : Instr} {c : UopCode}

theorem n_congr (h : s'.nlen = s.nlen) : s'.n = s.n := congrArg BitVec.toNat h

/-- The bytes a micro-operation leaves in `BUF` depend on what its row reads. -/
theorem dataEffect_buf_sameOrKept (hc : encode i = .uop c) (h : AgreeOn i.reads s s') :
    BytesSameOrKept s.mem.buf s'.mem.buf (dataEffect i s).mem.buf (dataEffect i s').mem.buf := by
  have operands (hbuf : Element.buf.same s s') :
      s'.b0 = s.b0 ∧ s'.b1 = s.b1 ∧ s'.b2 = s.b2 ∧ s'.b3 = s.b3 ∧ s'.b4 = s.b4 :=
    ⟨hbuf 9, hbuf 10, hbuf 11, hbuf 12, hbuf 13⟩
  have tr (hnlen : Element.nlen.same s s') : s'.tr = s.tr := congrArg (9 + ·) (n_congr hnlen)
  cases i with
  | asmClr => exact fun _ => .inl rfl
  | asmTag => exact .writeBlock _ _ 0 _
  | asmLic => exact .writeBlock _ _ 1 _
  | asmBody =>
    have hname : s'.nameBytes = s.nameBytes := by
      rw [State.nameBytes, State.nameBytes, n_congr (h .nlen (by decide))]
      exact Store.readBlock_congr fun a _ => h .name (by decide) (0 + a)
    rw [dataEffect, dataEffect, hname]; exact .writeBlock _ _ 9 _
  | trlT1 | trlT3 | trlT5 =>
    obtain ⟨h0, h1, h2, h3, h4⟩ := operands (h .buf (by decide))
    rw [dataEffect, dataEffect, h0, h1, h2, h3, h4, tr (h .nlen (by decide))]; exact .write _ _ _ _
  | trlT2 =>
    have hq : s'.q = s.q := h .q (by decide)
    obtain ⟨-, -, -, -, h4⟩ := operands (h .buf (by decide))
    rw [dataEffect, dataEffect, h4, hq, tr (h .nlen (by decide))]; exact .write _ _ _ _
  | trlT4 =>
    simp only [dataEffect, tr (h .nlen (by decide)), State.setBuf_buf]
    exact .write _ _ _ Params.t4Const
  | chkWr =>
    have hh : s'.h = s.h := h .h (by decide)
    rw [dataEffect, dataEffect, hh]; exact .writeBlock _ _ 5 _
  | obfStep =>
    have hpos : s'.pos = s.pos := congrArg BitVec.toNat (h .i (by decide))
    rw [dataEffect, dataEffect, hpos, h .buf (by decide)]; exact .write _ _ _ _
  | chkStep => rw [dataEffect, dataEffect, State.setH_buf, State.setH_buf]; exact .kept _ _
  | nop | ldlen | ldname | start | rdtok | rdstat | reset => cases hc
  | _ => exact .kept _ _

/-- The characters a micro-operation leaves in `TOK` depend on what its row reads. -/
theorem dataEffect_tok_sameOrKept (hc : encode i = .uop c) (h : AgreeOn i.reads s s') :
    BytesSameOrKept s.mem.tok s'.mem.tok (dataEffect i s).mem.tok (dataEffect i s').mem.tok := by
  cases i with
  | fmtOpen => simp only [dataEffect, State.setTlen_tok, State.setTok_tok]; exact .write _ _ 0 0x3C
  | fmtByte =>
    have hpos : s'.pos = s.pos := congrArg BitVec.toNat (h .i (by decide))
    rw [dataEffect, dataEffect, hpos, h .buf (by decide)]; exact .writeBlock _ _ _ _
  | fmtClose =>
    have hlen : s'.len = s.len := congrArg (15 + ·) (n_congr (h .nlen (by decide)))
    simp only [dataEffect, hlen, State.setTlen_tok, State.setTok_tok]; exact .write _ _ _ 0x3E
  | chkStep => rw [dataEffect, dataEffect, State.setH_tok, State.setH_tok]; exact .kept _ _
  | nop | ldlen | ldname | start | rdtok | rdstat | reset => cases hc
  | _ => exact .kept _ _

/-- The move of `UPC` and `I` looks at `UPC`, at the divisor after TRL.DEN, and in a loop at `I` and `NLEN`. -/
theorem advance_control_same (hupc : s'.upc = s.upc) (hden : i = .trlDen → s'.denom = s.denom)
    (hloop : i.isLoop = true → s'.i = s.i ∧ s'.nlen = s.nlen) :
    (advance i s').upc = (advance i s).upc ∧ (advance i s').i = (advance i s).i := by
  have hcond : (i = .trlDen ∧ s'.denom = 0) ↔ (i = .trlDen ∧ s.denom = 0) :=
    and_congr_right fun hi => by rw [hden hi]
  rw [advance, advance]
  simp only [hcond]
  split_ifs with hd hl
  · exact ⟨rfl, rfl⟩
  · obtain ⟨hi, hn⟩ := hloop hl
    have hpos : s'.pos = s.pos := congrArg BitVec.toNat hi
    have hlen : s'.len = s.len := congrArg (15 + ·) (n_congr hn)
    rw [loopUop, loopUop, hpos, hlen]
    split_ifs
    · exact ⟨hupc, congrArg (· + 1) hi⟩
    · exact ⟨congrArg (· + 1) hupc, rfl⟩
  · exact ⟨congrArg (· + 1) hupc, rfl⟩

section registers
variable (i : Instr) (s : State)
@[simp] theorem advance_h : (advance i s).h = s.h := by
  rcases advance_cases i s with ⟨-, -, h⟩ | ⟨-, -, h⟩ | ⟨-, -, h⟩ <;> rw [h] <;> rfl
@[simp] theorem advance_q : (advance i s).q = s.q := by
  rcases advance_cases i s with ⟨-, -, h⟩ | ⟨-, -, h⟩ | ⟨-, -, h⟩ <;> rw [h] <;> rfl
@[simp] theorem advance_tlen : (advance i s).tlen = s.tlen := by
  rcases advance_cases i s with ⟨-, -, h⟩ | ⟨-, -, h⟩ | ⟨-, -, h⟩ <;> rw [h] <;> rfl
/-- The exception is taken when the divisor is 0 already. -/
@[simp] theorem advance_denom : (advance i s).denom = s.denom := by
  rcases advance_cases i s with ⟨-, hd, h⟩ | ⟨-, -, h⟩ | ⟨-, -, h⟩ <;> rw [h]
  · exact hd.symm
  · rfl
  · rfl
end registers

/-- A register holds the same in two states; of a store nothing is said. -/
def Element.SameRegister (e : Element) (s t : State) : Prop := e ∉ [Element.name, .buf, .tok] → e.same s t

/-- Every register a micro-operation writes ends the same. -/
theorem uop_registers_same (hc : encode i = .uop c) (h : AgreeOn i.reads s s') :
    ∀ e ∈ i.writes, e.SameRegister (advance i (dataEffect i s)) (advance i (dataEffect i s')) := by
  have hupc : s'.upc = s.upc := h .upc (by cases i <;> cases hc <;> decide)
  have hdenom : i = .trlDen → (dataEffect i s').denom = (dataEffect i s).denom := by
    rintro rfl
    exact congrArg₂ divisor (h .buf (by decide) 9) (h .buf (by decide) 12)
  have hloop : i.isLoop = true → s'.i = s.i ∧ s'.nlen = s.nlen := fun hl =>
    ⟨h .i (by cases i <;> cases hl <;> decide), h .nlen (by cases i <;> cases hl <;> decide)⟩
  obtain ⟨hupc', hi'⟩ := advance_control_same (i := i) (s := dataEffect i s) (s' := dataEffect i s')
    (by rw [dataEffect_upc, dataEffect_upc, hupc]) hdenom (by simpa using hloop)
  have withData {e : Element} (he : e.SameRegister (advance i (dataEffect i s)) (advance i (dataEffect i s'))) :
      ∀ e' ∈ [e, .upc, .i], e'.SameRegister (advance i (dataEffect i s)) (advance i (dataEffect i s')) := by
    simp only [List.forall_mem_cons]
    exact ⟨he, fun _ => hupc', fun _ => hi', nofun⟩
  have withTok (htlen : (dataEffect i s').tlen = (dataEffect i s).tlen) :
      ∀ e ∈ [Element.tok, .tlen, .upc, .i],
        e.SameRegister (advance i (dataEffect i s)) (advance i (dataEffect i s')) :=
    List.forall_mem_cons.mpr ⟨fun hn => absurd (by decide) hn, withData (e := .tlen) fun _ => by
      rw [Element.same, advance_tlen, advance_tlen, htlen]⟩
  cases i with
  | asmClr | asmTag | asmLic | asmBody | trlT1 | trlT2 | trlT3 | trlT4 | trlT5 | chkWr | obfStep =>
    exact withData (e := .buf) fun hn => absurd (by decide) hn
  | trlDen =>
    refine withData (e := .denom) fun _ => ?_
    rw [Element.same, advance_denom, advance_denom, hdenom rfl]
  | trlQ =>
    refine withData (e := .q) fun _ => ?_
    have hdivisor : s'.denom = s.denom := h .denom (by decide)
    rw [Element.same, advance_q, advance_q]
    show Config.qfn (s'.bufAt 9) (s'.bufAt 10) s'.denom = _
    rw [h .buf (by decide) 9, h .buf (by decide) 10, hdivisor]; rfl
  | chkInit => exact withData (e := .h) fun _ => by rw [Element.same, advance_h, advance_h]; rfl
  | chkStep =>
    refine withData (e := .h) fun _ => ?_
    have hh : s'.h = s.h := h .h (by decide)
    have hpos : s'.pos = s.pos := congrArg BitVec.toNat (hloop rfl).1
    rw [Element.same, advance_h, advance_h]
    show chkFold s'.h (s'.bufAt s'.pos) = _
    rw [hh, hpos, h .buf (by decide)]; rfl
  | fmtOpen => exact withTok rfl
  | fmtByte =>
    have hpos : s'.pos = s.pos := congrArg BitVec.toNat (hloop rfl).1
    exact withTok (congrArg (fun k => BitVec.ofNat 7 (3 + 2 * k)) hpos)
  | fmtClose =>
    have hlen : s'.len = s.len := congrArg (15 + ·) (n_congr (h .nlen (by decide)))
    exact withTok (congrArg (fun k => BitVec.ofNat 7 (2 * k + 2)) hlen)
  | nop | ldlen | ldname | start | rdtok | rdstat | reset => cases hc

end uop

section command
variable {s s' t t' : State} {i : Instr} {w : PortWord}

/-- A register a command writes ends the same, or is left as it was in both states: whether a load or START is
ignored depends on `UPC` alone. -/
theorem command_registers_sameOrKept (hw : encode i = .command w) (hagree : AgreeOn i.reads s s')
    (h : exec i s = .next t) (h' : exec i s' = .next t') :
    ∀ e ∈ i.writes, e ∉ [Element.name, .buf, .tok] → e.same t t' ∨ (e.same s t ∧ e.same s' t') := by
  have busy (hupc : Element.upc ∈ i.reads) : s'.busy = s.busy := busy_congr (hagree .upc hupc)
  intro e he hstore
  cases i with
  | nop => cases h; cases h'; cases List.mem_singleton.mp he; exact .inl rfl
  | ldlen len =>
    have hbusy := busy (by simp [Instr.reads])
    rcases execLdlen_next h with ⟨hb, rfl⟩ | ⟨hb, rfl⟩ <;>
      rcases execLdlen_next h' with ⟨hb', rfl⟩ | ⟨hb', rfl⟩
    · cases e with
      | nlen => exact .inr ⟨rfl, rfl⟩
      | response => exact .inl rfl
      | _ => simp [Instr.writes] at he
    · rw [hbusy, hb] at hb'; cases hb'
    · rw [hbusy, hb] at hb'; cases hb'
    · cases e with
      | nlen | response => exact .inl rfl
      | _ => simp [Instr.writes] at he
  | ldname idx data =>
    cases e with
    | response =>
      left
      rcases execLdname_next h with ⟨-, rfl⟩ | ⟨-, -, rfl⟩ <;>
        rcases execLdname_next h' with ⟨-, rfl⟩ | ⟨-, -, rfl⟩ <;> rfl
    | name => simp at hstore
    | _ => simp [Instr.writes] at he
  | start =>
    have hbusy := busy (by decide)
    rcases execStart_next h with ⟨hb, rfl⟩ | ⟨hb, -, rfl⟩ <;>
      rcases execStart_next h' with ⟨hb', rfl⟩ | ⟨hb', -, rfl⟩
    · cases e with
      | tlen | upc | i => exact .inr ⟨rfl, rfl⟩
      | response => exact .inl rfl
      | _ => simp [Instr.writes] at he
    · rw [hbusy, hb] at hb'; cases hb'
    · rw [hbusy, hb] at hb'; cases hb'
    · cases e with
      | tlen | upc | i | response => exact .inl rfl
      | _ => simp [Instr.writes] at he
  | rdtok tidx =>
    cases List.mem_singleton.mp he
    have hdone := isDone_congr (hagree .upc (by simp [Instr.reads]))
    have htlen : s'.tlen = s.tlen := hagree .tlen (by simp [Instr.reads])
    have htok : s'.tokAt tidx = s.tokAt tidx := hagree .tok (by simp [Instr.reads]) tidx
    left
    rcases execRdtok_next h with ⟨hd, hlt, -, rfl⟩ | ⟨hn, rfl⟩ <;>
      rcases execRdtok_next h' with ⟨hd', hlt', -, rfl⟩ | ⟨hn', rfl⟩
    · exact congrArg (BitVec.setWidth 16) htok
    · rw [hdone, htlen] at hn'; exact absurd ⟨hd, hlt⟩ hn'
    · rw [hdone] at hd'; rw [htlen] at hlt'; exact absurd ⟨hd', hlt'⟩ hn
    · rfl
  | rdstat =>
    cases h; cases h'; cases List.mem_singleton.mp he
    exact .inl (statusWord_congr (hagree .upc (by decide)) (hagree .tlen (by decide)))
  | reset =>
    cases h; cases h'
    cases e with
    | name | buf | tok => simp at hstore
    | turns => simp [Instr.writes] at he
    | _ => exact .inl rfl
  | _ => cases hw

/-- LDNAME writes the same byte in both states, or is ignored in both; RESET writes the same stores; no other
command writes a store. -/
theorem command_stores_sameOrKept (hw : encode i = .command w) (hagree : AgreeOn i.reads s s')
    (h : exec i s = .next t) (h' : exec i s' = .next t') :
    BytesSameOrKept s.mem.name s'.mem.name t.mem.name t'.mem.name ∧
    BytesSameOrKept s.mem.buf s'.mem.buf t.mem.buf t'.mem.buf ∧
    BytesSameOrKept s.mem.tok s'.mem.tok t.mem.tok t'.mem.tok := by
  have kept (u u' : State) : BytesSameOrKept u.mem.name u'.mem.name u.mem.name u'.mem.name ∧
      BytesSameOrKept u.mem.buf u'.mem.buf u.mem.buf u'.mem.buf ∧
      BytesSameOrKept u.mem.tok u'.mem.tok u.mem.tok u'.mem.tok := ⟨.kept _ _, .kept _ _, .kept _ _⟩
  cases i with
  | nop | rdstat => cases h; cases h'; exact kept s s'
  | ldlen =>
    rcases execLdlen_next h with ⟨-, rfl⟩ | ⟨-, rfl⟩ <;>
      rcases execLdlen_next h' with ⟨-, rfl⟩ | ⟨-, rfl⟩ <;> exact kept s s'
  | ldname idx data =>
    have hbusy : s'.busy = s.busy := busy_congr (hagree .upc (by simp [Instr.reads]))
    rcases execLdname_next h with ⟨hb, rfl⟩ | ⟨hb, -, rfl⟩ <;>
      rcases execLdname_next h' with ⟨hb', rfl⟩ | ⟨hb', -, rfl⟩
    · exact kept s s'
    · rw [hbusy, hb] at hb'; cases hb'
    · rw [hbusy, hb] at hb'; cases hb'
    · exact ⟨.write _ _ idx data, .kept _ _, .kept _ _⟩
  | start =>
    rcases execStart_next h with ⟨-, rfl⟩ | ⟨-, -, rfl⟩ <;>
      rcases execStart_next h' with ⟨-, rfl⟩ | ⟨-, -, rfl⟩ <;> exact kept s s'
  | rdtok =>
    rcases execRdtok_next h with ⟨-, -, -, rfl⟩ | ⟨-, rfl⟩ <;>
      rcases execRdtok_next h' with ⟨-, -, -, rfl⟩ | ⟨-, rfl⟩ <;> exact kept s s'
  | reset => cases h; cases h'; exact ⟨fun _ => .inl rfl, fun _ => .inl rfl, fun _ => .inl rfl⟩
  | _ => cases hw

end command

/-- Settles O45: the registers and the stores of a micro-operation, as data effect and move; then those of a
command. -/
theorem operationsReadOnlyTheirElements : Obligations.OperationsReadOnlyTheirElements := by
  intro i s s' t t' hagree h h'
  cases hc : encode i with
  | uop c =>
    obtain ⟨rfl, -⟩ := exec_uop_next hc h
    obtain ⟨rfl, -⟩ := exec_uop_next hc h'
    have hbuf := dataEffect_buf_sameOrKept hc hagree
    have htok := dataEffect_tok_sameOrKept hc hagree
    refine ⟨fun e he hstore => .inl (uop_registers_same hc hagree e he hstore), fun a => .inr ⟨?_, ?_⟩,
      ?_, ?_⟩
    · exact (advance_dataEffect_name i s).2 a
    · exact (advance_dataEffect_name i s').2 a
    · simpa only [BytesSameOrKept, State.bufAt, advance_mem] using hbuf
    · simpa only [BytesSameOrKept, State.tokAt, advance_mem] using htok
  | command w =>
    exact ⟨command_registers_sameOrKept hc hagree h h', command_stores_sameOrKept hc hagree h h'⟩

end Sys2Proof.Machine
end

section
/-! PROOFS. Three stages with what they leave unchanged: the Layout Assembler (spec/41_assembler.md rule
R88), the Trailer Deriver (spec/42_trailer.md rule R100) and the Obfuscation Encoder (spec/44_obfuscation.md rules R113,
R117). -/

namespace Sys2Proof.Machine

/-! ## The frame of a straight line -/

theorem KeepsAllBut.refl (es : List Element) (s : State) : KeepsAllBut es s s := by
  intro e _
  cases e with
  | name | buf | tok => exact fun _ => rfl
  | nlen | h | denom | q | i | upc | tlen | response | turns => rfl

/-- A straight line leaves unchanged what none of its operations writes (R27). -/
theorem execLine_keepsAllBut {is : List Instr} {es : List Element} {s : State} (hn : s.n ≤ 32)
    (h : straightLine s.upc is = true) (hes : ∀ i ∈ is, i.writes ⊆ es) :
    KeepsAllBut es s (execLine is s) := by
  induction is generalizing s with
  | nil => exact .refl es s
  | cons i is ih =>
    simp only [straightLine, Bool.and_eq_true, decide_eq_true_eq] at h
    obtain ⟨⟨hc, hl, hd⟩, hrest⟩ := h
    obtain ⟨hi, his⟩ := List.forall_mem_cons.mp hes
    have hfirst := operationsWriteOnlyTheirElements i s _ (exec_straight hc hl hd hn)
    have hlater : KeepsAllBut es (nextUop (dataEffect i s)) (execLine is (nextUop (dataEffect i s))) :=
      ih (by rwa [nextUop_n, dataEffect_n]) (by rwa [nextUop_upc, dataEffect_upc]) his
    exact ((hfirst.mono hi).trans hlater).mono
      (List.append_subset.mpr ⟨List.Subset.refl es, List.Subset.refl es⟩)

/-! ## Stage 1, the Layout Assembler -/

/-- Settles O50: the stage as the straight line of its operations. -/
theorem assemblerStageBuildsBuffer : Obligations.AssemblerStageBuildsBuffer := by
  intro s ha h1 hl
  obtain ⟨hrun, hstage⟩ := run_assembler ha h1 hl
  exact ⟨_, hrun, hstage.upc, hstage.posZero, hstage.keyBuffer,
    fun _ habove _ => execLine_assembler_bufAt_above habove,
    execLine_keepsAllBut ((State.lenOk_iff s).mp hl).2 (by rw [h1]; decide) (by decide)⟩

/-! ## Stage 2, the Trailer Deriver -/

section trailer
variable {s : State}

/-- The guard's two ways as the first step of the stage. -/
theorem step_trlDen_rejected (ha : SequencerOnly s) (h5 : s.upc = 5) (hd : divisor s.b0 s.b3 = 0) :
    step s = .next (raiseInvalidName s) := by
  rw [step_alone ha (i := .trlDen) (by rw [h5]; rfl)]
  exact exec_trlDen_of_guardFails ((guardFails_iff s).mpr hd)

theorem step_trlDen_accepted (ha : SequencerOnly s) (h5 : s.upc = 5) (hd : divisor s.b0 s.b3 ≠ 0) :
    step s = .next (nextUop (s.setDenom (divisor s.b0 s.b3))) := by
  rw [step_trlDen ha h5, advance, if_neg fun hz => hd hz.2]; rfl

/-- The state after an accepted divisor and the operations that follow. -/
def trailerStage (s : State) : State := execLine trailerUops (nextUop (s.setDenom (divisor s.b0 s.b3)))

theorem trailerUops_straight (h5 : s.upc = 5) :
    straightLine (nextUop (s.setDenom (divisor s.b0 s.b3))).upc trailerUops = true := by
  rw [nextUop_upc, State.setDenom_upc, h5]; decide

theorem run_trailerStage (ha : SequencerOnly s) (h5 : s.upc = 5) (hl : LenOk s) (hd : divisor s.b0 s.b3 ≠ 0) :
    run 7 s = .next (trailerStage s) :=
  run_trans (run_one (step_trlDen_accepted ha h5 hd))
    (run_line (is := trailerUops) ha ((State.lenOk_iff s).mp hl).2 (trailerUops_straight h5))

theorem trailerStage_buf (hl : LenOk s) : (trailerStage s).mem.buf = s.mem.buf.writeBlock (s.tr + 1)
    (trailerTail Config.qfn s.b0 s.b1 s.b2 s.b3 s.b4 (divisor s.b0 s.b3)) :=
  execLine_trailer_buf (s := nextUop (s.setDenom (divisor s.b0 s.b3))) ((State.lenOk_iff s).mp hl).1

theorem trailerStage_keepsAllBut (h5 : s.upc = 5) (hl : LenOk s) :
    KeepsAllBut [.buf, .denom, .q, .upc, .i] s (trailerStage s) := by
  have hden := setDenom_setUpc_setI_keepsAllBut s (divisor s.b0 s.b3) (s.upc + 1) 0
  have hline : KeepsAllBut [.buf, .q, .upc, .i] (nextUop (s.setDenom (divisor s.b0 s.b3))) (trailerStage s) :=
    execLine_keepsAllBut ((State.lenOk_iff s).mp hl).2 (trailerUops_straight h5) (by decide)
  exact (hden.trans hline).mono (by decide)

end trailer

/-- Settles O51: `TRAILER` asks for the divisor as TRL.DEN does; then its five bytes after the first are the
block the stage writes after trailer[0]. -/
theorem trailerStageDerivesTrailer : Obligations.TrailerStageDerivesTrailer := by
  intro s ha h5 hl
  refine ⟨fun hnone => ?_, fun trl htrl => ?_⟩
  · have hd := trailer_eq_none_iff.mp hnone
    exact ⟨_, run_one (step_trlDen_rejected ha h5 hd), rfl, rfl, setDenom_setUpc_setI_keepsAllBut s 0 20 0⟩
  · have hd : divisor s.b0 s.b3 ≠ 0 := fun hd => by rw [trailer_eq_none_iff.mpr hd] at htrl; cases htrl
    rw [trailer, if_neg hd] at htrl
    obtain rfl := Option.some.inj htrl
    have hbuf := trailerStage_buf hl
    refine ⟨_, run_trailerStage ha h5 hl hd, ?_, rfl, fun j h1 hj => ?_, fun a hout => ?_,
      trailerStage_keepsAllBut h5 hl⟩
    · show s.upc + 1 + 1 + 1 + 1 + 1 + 1 + 1 = 12
      rw [h5]; rfl
    · obtain ⟨k, rfl⟩ := Nat.exists_eq_add_of_le h1
      rw [State.bufAt, hbuf, ← Nat.add_assoc]
      refine (Store.read_writeBlock_inside _ _ _ (show k < 5 by omega)).trans ?_
      rw [Nat.add_comm 1 k]; rfl
    · rw [State.bufAt, hbuf]
      exact Store.read_writeBlock_outside _ _ (show a < s.tr + 1 ∨ s.tr + 1 + 5 ≤ a by omega)

/-! ## Stage 4, the Obfuscation Encoder -/

/-- The loop changes `BUF` and `I` alone. -/
theorem loopIter_obfStep_eq (k : Nat) (s : State) : ∃ m j, loopIter .obfStep k s = (s.setBuf m).setI j := by
  induction k with
  | zero => exact ⟨s.mem.buf, s.i, rfl⟩
  | succ k ih =>
    obtain ⟨m, j, h⟩ := ih
    exact ⟨_, _, by rw [loopIter, h]; rfl⟩

/-- Settles O53: the stage as its loop, which has transformed the bytes below `LEN` when it is left. -/
theorem obfuscationStageTransformsBuffer : Obligations.ObfuscationStageTransformsBuffer := by
  intro s ha h15 hi hl
  have hn : s.n ≤ 32 := ((State.lenOk_iff s).mp hl).2
  have hlen := s.len_eq
  have hbyte (a : Nat) : (nextUop (loopIter .obfStep s.len s)).bufAt a =
      if a < s.len then obf a (s.bufAt a) else s.bufAt a := loopIter_obfStep_bufAt hi (by omega) a
  refine ⟨_, run_loop (i := .obfStep) ha (by rw [h15]; rfl) rfl hn hi, ?_, rfl, fun a hin => ?_,
    fun a hout => ?_, ?_⟩
  · rw [nextUop_upc, loopIter_upc, h15]; rfl
  · rw [hbyte, if_pos hin]
  · rw [hbyte, if_neg (Nat.not_lt.mpr hout)]
  · obtain ⟨m, j, h⟩ := loopIter_obfStep_eq s.len s
    rw [h]
    exact nextUop_setBuf_keepsAllBut s m

end Sys2Proof.Machine
end

section
/-! PROOFS. The obfuscation is reversible (spec/44_obfuscation.md rules R118, R119), and the source's testable
properties of ENCODE (spec/40_sequencer.md rule R82). -/

namespace Sys2Proof.Machine

/-! ## The obfuscation of a byte -/

theorem rev8_rev8 (v : Byte) : rev8 (rev8 v) = v := by
  refine BitVec.eq_of_getLsbD_eq fun k hk => ?_
  rw [getLsbD_rev8 _ hk, getLsbD_rev8 _ (by omega), Nat.sub_sub_self (by omega)]

theorem deobf_obf (i : Nat) (v : Byte) : deobf i (obf i v) = v := by
  rw [deobf, obf, rev8_rev8, BitVec.xor_assoc, BitVec.xor_self, BitVec.xor_zero]

theorem obf_deobf (i : Nat) (y : Byte) : obf i (deobf i y) = y := by
  rw [obf, deobf, BitVec.xor_assoc, BitVec.xor_self, BitVec.xor_zero, rev8_rev8]

theorem obf_bijective (i : Nat) : Function.Bijective (obf i) :=
  Function.bijective_iff_has_inverse.mpr ⟨deobf i, deobf_obf i, obf_deobf i⟩

/-- Settles O38: reversing the bits and masking each undo themselves. -/
theorem obfuscationIsReversible : Obligations.ObfuscationIsReversible :=
  ⟨deobf_obf, obf_deobf, obf_bijective, rev8_rev8⟩

theorem length_obfuscate (bs : List Byte) : (obfuscate bs).length = bs.length := by simp [obfuscate]

theorem obfuscate_injective : Function.Injective obfuscate := by
  intro bs cs h
  have hlen : bs.length = cs.length := by rw [← length_obfuscate bs, h, length_obfuscate]
  refine List.ext_getElem hlen fun k hk hk' => (obf_bijective k).injective ?_
  have hbyte : (obfuscate bs)[k]? = (obfuscate cs)[k]? := by rw [h]
  simpa [obfuscate, hk, hk'] using hbyte

/-! ## The raw KeyBuffer -/

theorem take_assemble (name : List Byte) : (assemble name).take (9 + name.length) =
    [Params.tag, 0xFF, 0x39, 0x65, 0x03, 0, 0, 0, 0] ++ name := by
  rw [assemble]
  exact List.take_left' (by simp; omega)

/-- The checksum's field lies in the header: filling it in keeps the length and what follows. -/
theorem length_withChecksum {bs : List Byte} (h : 9 ≤ bs.length) : (withChecksum bs).length = bs.length := by
  simp [withChecksum, Params.checksumAt, Params.bodyAt, Params.hdrLen]; omega

theorem drop_withChecksum {bs : List Byte} (h : 9 ≤ bs.length) : (withChecksum bs).drop 9 = bs.drop 9 := by
  have htake : (bs.take 5).length = 5 := List.length_take_of_le (by omega)
  rw [withChecksum]
  exact List.drop_left' (by rw [List.length_append, htake]; rfl)

theorem length_rawBuffer (name trl : List Byte) :
    (rawBuffer name trl).length = 9 + name.length + trl.length := by
  rw [rawBuffer, take_assemble, length_withChecksum (by simp)]
  simp; omega

/-- The name stands in the body. -/
theorem body_rawBuffer (name trl : List Byte) : ((rawBuffer name trl).drop 9).take name.length = name := by
  rw [rawBuffer, take_assemble, drop_withChecksum (by simp), List.append_assoc]
  exact List.take_left' rfl

/-! ## The token -/

/-- The codes of the digits 0-9a-f (R53). -/
def IsHexCode (c : Byte) : Prop :=
  0x30 ≤ c.toNat ∧ c.toNat ≤ 0x39 ∨ 0x61 ≤ c.toNat ∧ c.toNat ≤ 0x66

theorem isHexCode_hexd : ∀ d : Nibble, IsHexCode (hexd d) := by unfold IsHexCode; decide

theorem isHexCode_of_mem_digits {bs : List Byte} {c : Byte} (h : c ∈ bs.flatMap hexPair) : IsHexCode c := by
  obtain ⟨b, -, hc⟩ := List.mem_flatMap.mp h
  rw [hexPair, List.mem_pair] at hc
  rcases hc with rfl | rfl <;> exact isHexCode_hexd _

theorem length_digits (bs : List Byte) : (bs.flatMap hexPair).length = 2 * bs.length := by
  simp [List.length_flatMap, hexPair, Nat.mul_comm]

theorem length_format (bs : List Byte) : (format bs).length = 2 * bs.length + 2 := by
  rw [format, List.length_cons, List.length_append, length_digits]; rfl

theorem getLast?_format (bs : List Byte) : (format bs).getLast? = some 0x3E := by
  rw [format, ← List.cons_append, List.getLast?_concat]; rfl

/-- Between the brackets stand the digits. -/
theorem isHexCode_getD_format {bs : List Byte} {k : Nat} (h1 : 1 ≤ k) (hk : k + 1 < (format bs).length) :
    IsHexCode ((format bs).getD k 0) := by
  obtain ⟨j, rfl⟩ := Nat.exists_eq_add_of_le' h1
  rw [length_format] at hk
  have hj : j < (bs.flatMap hexPair).length := by rw [length_digits]; omega
  rw [format, List.getD_cons_succ, List.getD_append _ _ _ _ hj, List.getD_eq_getElem _ _ hj]
  exact isHexCode_of_mem_digits (List.getElem_mem hj)

/-! ## ENCODE -/

theorem length_of_trailer {f : QuotFn} {b0 b1 b2 b3 b4 : Byte} {trl : List Byte}
    (h : trailer f b0 b1 b2 b3 b4 = some trl) : trl.length = 6 := by
  rw [trailer] at h
  split at h
  · cases h
  · cases h; rfl

section encode
variable {f : QuotFn} {name tok : List Byte}

/-- A token is the format of an obfuscated raw KeyBuffer (R79). -/
theorem encodeName_eq_some (h : encodeName f name = some tok) :
    ∃ trl, trl.length = 6 ∧ tok = format (obfuscate (rawBuffer name trl)) := by
  obtain ⟨trl, htrl, rfl⟩ := Option.map_eq_some_iff.mp h
  exact ⟨trl, length_of_trailer htrl, rfl⟩

theorem encodeName_eq_none_iff_toNat : encodeName f name = none ↔
    ((name.getD 0 0).toNat + 256 - (name.getD 3 0).toNat + 1) % 256 = 0 := by
  rw [encodeName_eq_none_iff, guardFails, beq_iff_eq, ← toNat_divisor]
  exact BitVec.toNat_inj.symm

/-- Length, brackets and digits of a token (R82 b, d, e). -/
theorem encodeName_shape (h : encodeName f name = some tok) :
    tok.length = 2 * (15 + name.length) + 2 ∧ tok.head? = some 0x3C ∧ tok.getLast? = some 0x3E ∧
      ∀ k, 1 ≤ k → k + 1 < tok.length → IsHexCode (tok.getD k 0) := by
  obtain ⟨trl, htrl, rfl⟩ := encodeName_eq_some h
  refine ⟨?_, rfl, getLast?_format _, fun k h1 hk => isHexCode_getD_format h1 hk⟩
  rw [length_format, length_obfuscate, length_rawBuffer, htrl]; omega

/-- The token determines the name (R82 g): formatting and obfuscation are injective, and the body is the
name. -/
theorem encodeName_injective {name' : List Byte} (hlen : name'.length = name.length)
    (h : encodeName f name = some tok) (h' : encodeName f name' = some tok) : name' = name := by
  obtain ⟨trl, -, rfl⟩ := encodeName_eq_some h
  obtain ⟨trl', -, htok⟩ := encodeName_eq_some h'
  have hraw := obfuscate_injective (format_injective htok)
  rw [← body_rawBuffer name' trl', ← hraw, hlen, body_rawBuffer]

end encode

/-! ## The known vector (spec/95_test_vectors.md V1)

The evaluation stage by stage, and the checksum in two parts, so that no single one is deep. -/

/-- "Akira Kurosawa". -/
def knownName : List Byte :=
  [0x41, 0x6b, 0x69, 0x72, 0x61, 0x20, 0x4b, 0x75, 0x72, 0x6f, 0x73, 0x61, 0x77, 0x61]

def knownTrailer : List Byte := [0x00, 0x70, 0xab, 0xc5, 0x72, 0x90]

def knownRaw : List Byte :=
  [0x70, 0xff, 0x39, 0x65, 0x03, 0x12, 0x79, 0x71, 0x68] ++ knownName ++ knownTrailer

def knownObfuscated : List Byte :=
  [0xb1, 0xa0, 0x2b, 0x79, 0x9f, 0xd7, 0x81, 0x61, 0x79, 0x2d, 0xf9, 0x59, 0x01, 0x09, 0x0b, 0x25, 0xd9, 0xf9,
    0xc1, 0x19, 0xd1, 0x79, 0x91, 0xe7, 0x69, 0x72, 0x84, 0x89, 0x4e]

theorem trailer_known : trailer qfnRem (nameByte knownName 0) (nameByte knownName 1) (nameByte knownName 2)
    (nameByte knownName 3) (nameByte knownName 4) = some knownTrailer := by decide

theorem checksum_append (bs cs : List Byte) : checksum (bs ++ cs) = cs.foldl chkFold (checksum bs) :=
  List.foldl_append

theorem checksum_known_header :
    checksum ([Params.tag, 0xFF, 0x39, 0x65, 0x03, 0, 0, 0, 0] ++ knownName.take 5) = 0x546e2f76 := by decide

theorem checksum_known :
    checksum ([Params.tag, 0xFF, 0x39, 0x65, 0x03, 0, 0, 0, 0] ++ knownName ++ knownTrailer) = 0x68717912 := by
  have hsplit : [Params.tag, 0xFF, 0x39, 0x65, 0x03, 0, 0, 0, 0] ++ knownName ++ knownTrailer =
      ([Params.tag, 0xFF, 0x39, 0x65, 0x03, 0, 0, 0, 0] ++ knownName.take 5) ++
        (knownName.drop 5 ++ knownTrailer) := rfl
  rw [hsplit, checksum_append, checksum_known_header]
  decide

theorem rawBuffer_known : rawBuffer knownName knownTrailer = knownRaw := by
  rw [rawBuffer, take_assemble, withChecksum, checksum_known]; rfl

theorem obfuscate_known : obfuscate knownRaw = knownObfuscated := by decide

theorem encodeName_known : encodeName qfnRem knownName = some (format knownObfuscated) := by
  rw [encodeName, trailer_known, Option.map_some, rawBuffer_known, obfuscate_known]

theorem format_known : (format knownObfuscated).map BitVec.toNat =
    "<b1a02b799fd78161792df95901090b25d9f9c119d17991e7697284894e>".toList.map Char.toNat := by decide

/-- Settles O58: the shape and the injectivity of ENCODE; the known vector by evaluation. -/
theorem encodeTestableProperties : Obligations.EncodeTestableProperties := by
  refine ⟨fun f name _ _ => ⟨encodeName_eq_none_iff_toNat, fun tok h => encodeName_shape h,
    fun name' hlen hne tok tok' h h' htok => ?_⟩, ?_⟩
  · exact hne (encodeName_injective hlen h (htok ▸ h'))
  · exact (congrArg _ encodeName_known).trans (congrArg some format_known)

end Sys2Proof.Machine
end
